-- ==== Sys2Proof/Word.lean ====
section
/-! DEFINITION. Bytes, 16-bit words and buffers (spec/00_scope.md R14). -/

namespace Sys2Proof

/-- A byte, an unsigned integer 0..255 (R14). -/
abbrev Byte := BitVec 8

/-- A 16-bit word: a sub-block number (R36) or a cipher key word (R25). -/
abbrev Half := BitVec 16

/-- A 7-bit value: a device ID, a model ID or a command (R70, R153). -/
abbrev Seven := BitVec 7

/-- A finite sequence of bytes, indexed from 0 (R14). -/
abbrev Buffer := List Byte

/-- "a byte is 7-bit clean when bit 7 is 0" (R14). -/
abbrev clean (b : Byte) : Bool := !b.getLsbD 7

/-- `rep(v, n)`: `n` copies of byte `v` (R14). -/
abbrev rep (v : Byte) (n : Nat) : Buffer := List.replicate n v

end Sys2Proof
end

