-- ==== Sys2Proof/Config.lean ====
section
/-! DEFINITION. What an implementation fixes: the device-profile record, the two profiles whose keys the spec gives, and
the free values (spec/00_scope.md R10, R11; spec/10_state.md R34; spec/47_profile_and_partition.md). -/

namespace Sys2Proof

/-- The checksum-variant selector: one value, the routine of R121 (R3, P4). -/
inductive CkVariant where
  | rolling
deriving DecidableEq, Repr

/-- The labels of the flash-layout table (R58). -/
inductive RegionLabel where
  | bootloader
  | application
  | unused
  | presets
  | scratch
  | deviceData
deriving DecidableEq, Repr

/-- One labelled range of flash addresses, both ends included (R58). -/
structure LayoutRange where
  first : Nat
  last : Nat
  label : RegionLabel
deriving DecidableEq, Repr

/-- A byte-string matcher at an offset of a block (R204). -/
structure Signature where
  block : Nat
  offset : Nat
  pattern : Buffer
deriving DecidableEq, Repr

/-- The five `(offset, length)` pairs of the bootloader (R205). -/
structure BootOffsets where
  bootloaderKey : Nat × Nat
  encryptedAppKey : Nat × Nat
  midiUpdateKey : Nat × Nat
  lcdBanner : Nat × Nat
  modelTag : Nat × Nat
deriving DecidableEq, Repr

/-- The device profile, an "Immutable record" (R34). -/
structure Profile where
  modelId : Seven
  ckVariant : CkVariant
  midiKey : Buffer
  appKey : Buffer
  encLo : Nat
  encHi : Nat
  appStart : Nat
  layout : List LayoutRange
  signatures : List Signature
  blOffsets : BootOffsets
deriving DecidableEq, Repr

namespace Config

/-- `BLOCK_BYTES` (R10). -/
abbrev blockBytes : Nat := 4096
/-- `SUB_BYTES` (R10). -/
abbrev subBytes : Nat := 256
/-- `SUBS_PER_BLOCK` (R10). -/
abbrev subsPerBlock : Nat := 16
/-- `NBLOCKS` (R10). -/
abbrev nBlocks : Nat := 0x80
/-- `FLASH_BYTES` (R10). -/
abbrev flashBytes : Nat := 0x80000
/-- `REC_BYTES` (R10). -/
abbrev recBytes : Nat := 259
/-- `PACKED_REC_BYTES` (R10, 90_conflicts.md C2). -/
abbrev packedRecBytes : Nat := 296
/-- `EVENT_BYTES` (R10). -/
abbrev eventBytes : Nat := 304
/-- `MSG_SUB`, the number reserved for display messages (R10). -/
abbrev msgSub : Half := 0xFF00
/-- `VENDOR` (R10). -/
abbrev vendor : Buffer := [0x00, 0x20, 0x32]
/-- `CMD_WRITE_FLASH` (R10). -/
abbrev cmdWriteFlash : Seven := 0x34
/-- `BROADCAST_ID` (R10). -/
abbrev broadcastId : Seven := 0x7F
/-- The start byte of an event (R70). -/
abbrev startByte : Byte := 0xF0
/-- The end byte of an event (R70). -/
abbrev endByte : Byte := 0xF7

/-- Free value: whether `ASM.GETBLOCKS` deciphers complete block `i` while `prof` is null. The spec states no result there
(R170: `prof` "is not read" only when no block is complete). DESIGN CHOICE, log 12; safe: nothing constrains it. -/
opaque nullProfileEnciphers : Nat → Bool

/-- Free value: whether the trial of `ASM.IDENT` with key `k` matches a buffer `u` of fewer than 259 bytes. The spec states
no result there (R166 reads offsets 0..258). DESIGN CHOICE, log 13; safe: nothing constrains it. -/
opaque shortTrialMatches : Buffer → Buffer → Bool

/-- The ASCII codes of `- ORIGINAL BEHRINGER CODE - COPYRIGHT 200` (R201). -/
def appKeyHead : Buffer :=
  [0x2D, 0x20, 0x4F, 0x52, 0x49, 0x47, 0x49, 0x4E, 0x41, 0x4C, 0x20, 0x42, 0x45, 0x48, 0x52, 0x49,
   0x4E, 0x47, 0x45, 0x52, 0x20, 0x43, 0x4F, 0x44, 0x45, 0x20, 0x2D, 0x20, 0x43, 0x4F, 0x50, 0x59,
   0x52, 0x49, 0x47, 0x48, 0x54, 0x20, 0x32, 0x30, 0x30]

/-- The ASCII codes of ` - BGER/TZ - ` and the NUL, which is part of the key (R201, R112). -/
def appKeyTail : Buffer :=
  [0x20, 0x2D, 0x20, 0x42, 0x47, 0x45, 0x52, 0x2F, 0x54, 0x5A, 0x20, 0x2D, 0x20, 0x00]

/-- `APP_KEY` of profile A, 56 bytes (R201). -/
def appKeyA : Buffer := appKeyHead ++ [0x34] ++ appKeyTail
/-- `APP_KEY` of profile B: byte 41 is 32, not 34 (R201). -/
def appKeyB : Buffer := appKeyHead ++ [0x32] ++ appKeyTail
/-- `MIDI_KEY` of profile A (R201). -/
def midiKeyA : Buffer := [0x54, 0x5A, 0x27, 0x30, 0x34]
/-- `MIDI_KEY` of profile B (R201). -/
def midiKeyB : Buffer := [0x54, 0x5A, 0x27, 0x30, 0x32]

/-- The flash layout of the primary profile (R58). -/
def primaryLayout : List LayoutRange :=
  [⟨0x00000, 0x03FFF, .bootloader⟩, ⟨0x04000, 0x5AFFF, .application⟩, ⟨0x5B000, 0x73FFF, .unused⟩,
   ⟨0x74000, 0x7BFFF, .presets⟩, ⟨0x7C000, 0x7DFFF, .scratch⟩, ⟨0x7E000, 0x7FFFF, .deviceData⟩]

/-- The primary profile's signatures: `DEQ2496V2 BOOTLOADER V2.2` at block 2 offset 0xC94 and `COPY` at block 4 offset 0x01C
(R202, R204). -/
def primarySignatures : List Signature :=
  [⟨2, 0xC94, [0x44, 0x45, 0x51, 0x32, 0x34, 0x39, 0x36, 0x56, 0x32, 0x20, 0x42, 0x4F, 0x4F, 0x54, 0x4C, 0x4F, 0x41, 0x44,
     0x45, 0x52, 0x20, 0x56, 0x32, 0x2E, 0x32]⟩,
   ⟨4, 0x01C, [0x43, 0x4F, 0x50, 0x59]⟩]

/-- The bootloader offsets of the primary profile (R205). -/
def primaryOffsets : BootOffsets :=
  ⟨(0x3002, 56), (0x303A, 56), (0x2C84, 5), (0x308A, 25), (0x2C94, 25)⟩

/-- Profile A, the primary profile (R202); its model ID is the open parameter P1. -/
def profileA (modelId : Seven) : Profile :=
  { modelId, ckVariant := .rolling, midiKey := midiKeyA, appKey := appKeyA, encLo := 4, encHi := 0x5A, appStart := 0x04000,
    layout := primaryLayout, signatures := primarySignatures, blOffsets := primaryOffsets }

/-- Profile B: only its keys are fixed; everything else is the open parameter P3 (00_scope.md R11). -/
def profileB (modelId : Seven) (encLo encHi appStart : Nat) (layout : List LayoutRange) (signatures : List Signature)
    (blOffsets : BootOffsets) : Profile :=
  { modelId, ckVariant := .rolling, midiKey := midiKeyB, appKey := appKeyB, encLo, encHi, appStart, layout, signatures,
    blOffsets }

end Config

end Sys2Proof
end

