-- ==== Sys2Proof/Syntax.lean ====
section
/-! DEFINITION. The 31 rows of spec/opcode_table.json as one inductive, with the operands the table and the rules give each
row, and the transactions that carry them (spec/30_encoding.md R70 to R83; log 1). -/

namespace Sys2Proof

/-- A parsed event `{deviceId, modelId, command, payload}`: "three values 0..0x7F and a buffer of 7-bit-clean bytes" (R153). -/
structure Event where
  deviceId : Seven
  modelId : Seven
  command : Seven
  payload : Buffer
deriving DecidableEq, Repr

/-- What a record form presented as a transaction carries: its 256 data bytes, and the profile under whose MIDI key its event
carries the record (R72, log 9). -/
structure Carried where
  profile : Profile
  bytes : Buffer
deriving DecidableEq, Repr

/-- A FlashBlock map: "a sparse mapping from block index (0..0x7F) to FlashBlock", as index and 4096-byte block (R37). -/
abbrev BlockMap := List (Nat × Buffer)

/-- Display messages keyed by ordinal (R31, R184). -/
abbrev Texts := List (Nat × Buffer)

/-- One constructor for each row of spec/opcode_table.json. -/
inductive Instr where
  /-- PACK x (R100). -/
  | pack (x : Buffer)
  /-- UNPACK y (R101). -/
  | unpack (y : Buffer)
  /-- XORK key, data (R110). -/
  | xork (key data : Buffer)
  /-- CSUM data (R122). -/
  | csum (data : Buffer)
  /-- BAC base, blk (R132). -/
  | bac (base : Half) (blk : Buffer)
  /-- ENV.RESET (R140). -/
  | envReset
  /-- ENV.FEED b (R141). -/
  | envFeed (b : Byte)
  /-- ENV.END (R145). -/
  | envEnd
  /-- ENV.SCAN buf (R146). -/
  | envScan (buf : Buffer)
  /-- ENV.BUILD deviceId, modelId, command, payload: "three bytes and a buffer" (R148). -/
  | envBuild (deviceId modelId command : Byte) (payload : Buffer)
  /-- ENV.DETECT buf (R150). -/
  | envDetect (buf : Buffer)
  /-- SB.BUILD sub, payload (R180). -/
  | sbBuild (sub : Half) (payload : Buffer)
  /-- SB.PARSE r (R160). -/
  | sbParse (r : Buffer)
  /-- MSG.BUILD text (R182). -/
  | msgBuild (text : Buffer)
  /-- SB.WRAP P, r (R181). -/
  | sbWrap (p : Profile) (r : Buffer)
  /-- ASM.RESET (R161). -/
  | asmReset
  /-- ASM.PRESET p (R162). -/
  | asmPreset (p : Profile)
  /-- ASM.IDENT u, modelId (R166). -/
  | asmIdent (u : Buffer) (modelId : Seven)
  /-- ASM.ACCEPT ev (R163). -/
  | asmAccept (ev : Event)
  /-- ASM.GETBLOCKS (R170). -/
  | asmGetblocks
  /-- FLASHVIEW map (R172). -/
  | flashview (map : BlockMap)
  /-- DECODE buf (R174). -/
  | decodeStream (buf : Buffer)
  /-- ENCODE P, A, B, M (R184). -/
  | encodeImage (p : Profile) (a : Nat) (b : Buffer) (m : Texts)
  /-- PART.SENS map, lo, hi (R206). -/
  | partSens (map : BlockMap) (lo hi : Nat)
  /-- PART.FILL map, lo, hi (R207). -/
  | partFill (map : BlockMap) (lo hi : Nat)
  /-- APPKEY.RECOVER map, P (R209). -/
  | appkeyRecover (map : BlockMap) (p : Profile)
  /-- PART.APPDEC raw, key (R208). -/
  | partAppdec (raw key : Buffer)
  /-- The wire form EVT.WRITE_FLASH: device ID, model ID and payload of an event of command 0x34 (R70, R80). -/
  | evtWriteFlash (d m : Seven) (payload : Buffer)
  /-- The wire form REC.FLASH: number, checksum byte and 256 data bytes of a cleartext record (R72, R80), with the profile that
  carries it (log 9). -/
  | recFlash (sub : Half) (k : Byte) (data : Carried)
  /-- The wire form REC.MSG: checksum byte and 256 text bytes of the record numbered 0xFF00 (R75, R80), with the profile that
  carries it (log 9). -/
  | recMsg (k : Byte) (text : Carried)
  /-- The wire form GRP: the low 7 bits `a..g` of seven bytes and the 7-bit `H` (R73). -/
  | grp (p0 p1 p2 p3 p4 p5 p6 h : Seven)
deriving DecidableEq, Repr

/-- The four encodings of the table's `format` column (R80, R81). -/
inductive Format where
  /-- An operation select `OP` with its operands. -/
  | op
  /-- Format EVT, a SysEx event. -/
  | event
  /-- Format REC, a cleartext sub-block record. -/
  | record
  /-- Format GRP, a packed group. -/
  | group
deriving DecidableEq, Repr

/-- An operand the host presents beside an operation select (D1). The spec gives operands no bit encoding; "Wire" is "the
only encoding that exists outside the engine" (95_test_vectors.md section 3; log 1). -/
inductive Operand where
  | byte (b : Byte)
  | half (h : Half)
  | seven (v : Seven)
  | num (n : Nat)
  | buf (b : Buffer)
  | profile (p : Profile)
  | event (e : Event)
  | map (m : BlockMap)
  | texts (m : Texts)
deriving DecidableEq, Repr

/-- One transaction of the host (D1): the encoded bytes (the `OP` byte, or a whole wire form) and the operands, for format OP
those of the operation, for format REC the profile that is a parameter of the step (R13, log 9). -/
structure Transaction where
  format : Format
  bytes : Buffer
  operands : List Operand
deriving DecidableEq, Repr

end Sys2Proof
end

