-- ==== Sys2Proof/WellFormed.lean ====
section
/-! DEFINITION. Which operand values are values of their types: the legal values of a profile's fields (R34), the shape of a
FlashBlock map (R37), the clean payload of an event (R153), the one text per ordinal of a message map (R188), and the fixed
lengths and numbers of the record forms (R72, R80). Operand values whose outcome a rule gives (a wrong length that raises,
an unclean byte that is refused) are well formed. -/

namespace Sys2Proof

/-- The legal values of the profile fields (R34). -/
def Profile.wellFormed (p : Profile) : Bool :=
  decide (1 ≤ p.midiKey.length) && decide (p.appKey.length = 56) && decide (p.encLo ≤ p.encHi) && decide (p.encHi ≤ 0x7F)
    && decide (p.appStart % 0x1000 = 0) && decide (p.appStart ≤ 0x7F000)

/-- "payload bytes (all with MSB clear)" (R153). -/
def Event.wellFormed (e : Event) : Bool := e.payload.all clean

/-- A record has 256 data bytes (R72), and the profile that carries it is a legal one (R34). -/
def Carried.wellFormed (c : Carried) : Bool := c.profile.wellFormed && decide (c.bytes.length = Config.subBytes)

/-- Block indices rising and in 0..0x7F, every block 4096 bytes (R37). -/
abbrev BlockMap.wf (m : BlockMap) : Prop :=
  m.Pairwise (fun x y => x.1 < y.1) ∧ ∀ c ∈ m, c.1 < Config.nBlocks ∧ c.2.length = Config.blockBytes

/-- "at most one text per ordinal" (R188). -/
abbrev Texts.wf (m : Texts) : Prop := m.Pairwise (fun x y => x.1 ≠ y.1)

/-- A block index is 0..0x7F (R36). -/
abbrev blockIndexOk (n : Nat) : Bool := decide (n < Config.nBlocks)

/-- Every operand is a value of its type. The target address of ENCODE may be any natural number, also one above the 19 bits of
R36: R184's alignment and block-range tests decide it. DESIGN CHOICE, log 31. -/
def Instr.wellFormed : Instr → Bool
  | .pack _ => true
  | .unpack _ => true
  | .xork _ _ => true
  | .csum _ => true
  | .bac _ _ => true
  | .envReset => true
  | .envFeed _ => true
  | .envEnd => true
  | .envScan _ => true
  | .envBuild _ _ _ _ => true
  | .envDetect _ => true
  | .sbBuild _ _ => true
  | .sbParse _ => true
  | .msgBuild _ => true
  | .sbWrap p _ => p.wellFormed
  | .asmReset => true
  | .asmPreset p => p.wellFormed
  | .asmIdent _ _ => true
  | .asmAccept ev => ev.wellFormed
  | .asmGetblocks => true
  | .flashview map => decide (BlockMap.wf map)
  | .decodeStream _ => true
  | .encodeImage p _ _ m => p.wellFormed && decide (Texts.wf m)
  | .partSens map lo hi => decide (BlockMap.wf map) && blockIndexOk lo && blockIndexOk hi
  | .partFill map lo hi => decide (BlockMap.wf map) && blockIndexOk lo && blockIndexOk hi
  | .appkeyRecover map p => decide (BlockMap.wf map) && p.wellFormed
  | .partAppdec _ _ => true
  | .evtWriteFlash _ _ payload => payload.all clean
  | .recFlash sub _ data => data.wellFormed && decide (sub ≠ Config.msgSub)
  | .recMsg _ text => text.wellFormed
  | .grp _ _ _ _ _ _ _ _ => true

end Sys2Proof
end

