-- ==== Sys2Proof/Decode.lean ====
section
/-! DEFINITION. Decoding a transaction into an instruction, rejecting by name, and the encoder, both from the tables of
spec/30_encoding.md (R70, R72, R73, R80, R81). The operands of an `OP` are the values the host presents (D1, log 1). -/

namespace Sys2Proof

/-- Why a transaction is no instruction. -/
inductive DecodeError where
  /-- "Every `OP` value not listed is unassigned" (R81). -/
  | unassignedOp (code : Byte)
  /-- The operands beside an assigned `OP` are not those it takes, or not values of their types (log 20). -/
  | badOperands (code : Byte)
  /-- The bytes are no form of the format they were presented in (log 11). -/
  | noSuchForm (f : Format)
deriving DecidableEq, Repr

/-- The 27 operations of the `OP` map (R81). -/
inductive Op where
  | pack | unpack | xork | csum | bac
  | envReset | envFeed | envEnd | envScan | envBuild | envDetect
  | sbBuild | sbParse | msgBuild | sbWrap
  | asmReset | asmPreset | asmIdent | asmAccept | asmGetblocks | flashview
  | decodeStream | encodeImage
  | partSens | partFill | appkeyRecover | partAppdec
deriving DecidableEq, Repr

/-- The operation-select codes, in the order of the table (R81). -/
def opTable : List (Byte × Op) :=
  [(0x01, .pack), (0x02, .unpack), (0x03, .xork), (0x04, .csum), (0x05, .bac),
   (0x10, .envReset), (0x11, .envFeed), (0x12, .envEnd), (0x13, .envScan), (0x14, .envBuild), (0x15, .envDetect),
   (0x20, .sbBuild), (0x21, .sbParse), (0x22, .msgBuild), (0x23, .sbWrap),
   (0x30, .asmReset), (0x31, .asmPreset), (0x32, .asmIdent), (0x33, .asmAccept), (0x35, .asmGetblocks), (0x36, .flashview),
   (0x40, .decodeStream), (0x41, .encodeImage),
   (0x50, .partSens), (0x51, .partFill), (0x52, .appkeyRecover), (0x53, .partAppdec)]

/-- The operation an `OP` byte selects. -/
def opOfCode (code : Byte) : Option Op := opTable.lookup code

/-- The instruction an operation makes of its operands, if they are the ones it takes. -/
def Op.build : Op → List Operand → Option Instr
  | .pack, [.buf x] => some (.pack x)
  | .unpack, [.buf y] => some (.unpack y)
  | .xork, [.buf key, .buf data] => some (.xork key data)
  | .csum, [.buf data] => some (.csum data)
  | .bac, [.half base, .buf blk] => some (.bac base blk)
  | .envReset, [] => some .envReset
  | .envFeed, [.byte b] => some (.envFeed b)
  | .envEnd, [] => some .envEnd
  | .envScan, [.buf buf] => some (.envScan buf)
  | .envBuild, [.byte d, .byte m, .byte c, .buf payload] => some (.envBuild d m c payload)
  | .envDetect, [.buf buf] => some (.envDetect buf)
  | .sbBuild, [.half sub, .buf payload] => some (.sbBuild sub payload)
  | .sbParse, [.buf r] => some (.sbParse r)
  | .msgBuild, [.buf text] => some (.msgBuild text)
  | .sbWrap, [.profile p, .buf r] => some (.sbWrap p r)
  | .asmReset, [] => some .asmReset
  | .asmPreset, [.profile p] => some (.asmPreset p)
  | .asmIdent, [.buf u, .seven modelId] => some (.asmIdent u modelId)
  | .asmAccept, [.event ev] => some (.asmAccept ev)
  | .asmGetblocks, [] => some .asmGetblocks
  | .flashview, [.map map] => some (.flashview map)
  | .decodeStream, [.buf buf] => some (.decodeStream buf)
  | .encodeImage, [.profile p, .num a, .buf b, .texts m] => some (.encodeImage p a b m)
  | .partSens, [.map map, .num lo, .num hi] => some (.partSens map lo hi)
  | .partFill, [.map map, .num lo, .num hi] => some (.partFill map lo hi)
  | .appkeyRecover, [.map map, .profile p] => some (.appkeyRecover map p)
  | .partAppdec, [.buf raw, .buf key] => some (.partAppdec raw key)
  | _, _ => none

/-- Format OP: one `OP` byte and its operands. -/
def decodeOp (bytes : Buffer) (operands : List Operand) : Except DecodeError Instr :=
  match bytes with
  | [code] =>
    match opOfCode code with
    | none => .error (.unassignedOp code)
    | some op =>
      match op.build operands with
      | none => .error (.badOperands code)
      | some i => if i.wellFormed then .ok i else .error (.badOperands code)
  | _ => .error (.noSuchForm .op)

/-- Format EVT (R70): start byte, vendor, three header bytes, payload, end byte, every byte between the first and the last
7-bit clean (R71). Command 0x34 is the form EVT.WRITE_FLASH (R80); an event of another command is the operand of an
ASM.ACCEPT, which skips it (R84, log 11). -/
def decodeEvent (bytes : Buffer) : Except DecodeError Instr :=
  if bytes.take 4 = Config.startByte :: Config.vendor then
    match bytes.drop 4 with
    | d :: m :: c :: rest =>
      if rest.getLast? = some Config.endByte && (d :: m :: c :: rest.dropLast).all clean then
        if c.setWidth 7 = Config.cmdWriteFlash then
          .ok (.evtWriteFlash (d.setWidth 7) (m.setWidth 7) rest.dropLast)
        else
          .ok (.asmAccept ⟨d.setWidth 7, m.setWidth 7, c.setWidth 7, rest.dropLast⟩)
      else .error (.noSuchForm .event)
    | _ => .error (.noSuchForm .event)
  else .error (.noSuchForm .event)

/-- Format REC (R72): two number bytes, big-endian (R51), the checksum byte and 256 data bytes, with the profile whose key
carries it (log 9). 0xFF00 is REC.MSG, "anything else is a flash sub-block" (R80). -/
def decodeRecord (bytes : Buffer) (operands : List Operand) : Except DecodeError Instr :=
  match operands, bytes with
  | [.profile p], hi :: lo :: k :: data =>
    if Carried.wellFormed ⟨p, data⟩ then
      if hi ++ lo = Config.msgSub then .ok (.recMsg k ⟨p, data⟩) else .ok (.recFlash (hi ++ lo) k ⟨p, data⟩)
    else .error (.noSuchForm .record)
  | _, _ => .error (.noSuchForm .record)

/-- Format GRP (R73): eight bytes, bit 7 of each 0. -/
def decodeGroup (bytes : Buffer) : Except DecodeError Instr :=
  match bytes with
  | [p0, p1, p2, p3, p4, p5, p6, h] =>
    if [p0, p1, p2, p3, p4, p5, p6, h].all clean then
      .ok (.grp (p0.setWidth 7) (p1.setWidth 7) (p2.setWidth 7) (p3.setWidth 7) (p4.setWidth 7) (p5.setWidth 7)
        (p6.setWidth 7) (h.setWidth 7))
    else .error (.noSuchForm .group)
  | _ => .error (.noSuchForm .group)

/-- The instruction a transaction carries, or why it carries none. -/
def decode (t : Transaction) : Except DecodeError Instr :=
  match t.format with
  | .op => decodeOp t.bytes t.operands
  | .event => decodeEvent t.bytes
  | .record => decodeRecord t.bytes t.operands
  | .group => decodeGroup t.bytes

/-! ## The encoder -/

/-- A transaction of format OP. -/
def opTransaction (code : Byte) (operands : List Operand) : Transaction := ⟨.op, [code], operands⟩

/-- A value of 7 bits as a clean byte. -/
def sevenByte (v : Seven) : Byte := v.setWidth 8

/-- The bytes of an event (R70). -/
def eventBytesOf (d m c : Byte) (payload : Buffer) : Buffer :=
  Config.startByte :: Config.vendor ++ [d, m, c] ++ payload ++ [Config.endByte]

/-- The bytes of a record (R72). -/
def recordBytesOf (sub : Half) (k : Byte) (data : Buffer) : Buffer :=
  [sub.extractLsb' 8 8, sub.extractLsb' 0 8, k] ++ data

/-- The transaction that carries an instruction. -/
def encode : Instr → Transaction
  | .pack x => opTransaction 0x01 [.buf x]
  | .unpack y => opTransaction 0x02 [.buf y]
  | .xork key data => opTransaction 0x03 [.buf key, .buf data]
  | .csum data => opTransaction 0x04 [.buf data]
  | .bac base blk => opTransaction 0x05 [.half base, .buf blk]
  | .envReset => opTransaction 0x10 []
  | .envFeed b => opTransaction 0x11 [.byte b]
  | .envEnd => opTransaction 0x12 []
  | .envScan buf => opTransaction 0x13 [.buf buf]
  | .envBuild d m c payload => opTransaction 0x14 [.byte d, .byte m, .byte c, .buf payload]
  | .envDetect buf => opTransaction 0x15 [.buf buf]
  | .sbBuild sub payload => opTransaction 0x20 [.half sub, .buf payload]
  | .sbParse r => opTransaction 0x21 [.buf r]
  | .msgBuild text => opTransaction 0x22 [.buf text]
  | .sbWrap p r => opTransaction 0x23 [.profile p, .buf r]
  | .asmReset => opTransaction 0x30 []
  | .asmPreset p => opTransaction 0x31 [.profile p]
  | .asmIdent u modelId => opTransaction 0x32 [.buf u, .seven modelId]
  | .asmAccept ev => opTransaction 0x33 [.event ev]
  | .asmGetblocks => opTransaction 0x35 []
  | .flashview map => opTransaction 0x36 [.map map]
  | .decodeStream buf => opTransaction 0x40 [.buf buf]
  | .encodeImage p a b m => opTransaction 0x41 [.profile p, .num a, .buf b, .texts m]
  | .partSens map lo hi => opTransaction 0x50 [.map map, .num lo, .num hi]
  | .partFill map lo hi => opTransaction 0x51 [.map map, .num lo, .num hi]
  | .appkeyRecover map p => opTransaction 0x52 [.map map, .profile p]
  | .partAppdec raw key => opTransaction 0x53 [.buf raw, .buf key]
  | .evtWriteFlash d m payload => ⟨.event, eventBytesOf (sevenByte d) (sevenByte m) 0x34 payload, []⟩
  | .recFlash sub k data => ⟨.record, recordBytesOf sub k data.bytes, [.profile data.profile]⟩
  | .recMsg k text => ⟨.record, recordBytesOf Config.msgSub k text.bytes, [.profile text.profile]⟩
  | .grp p0 p1 p2 p3 p4 p5 p6 h =>
    ⟨.group, [sevenByte p0, sevenByte p1, sevenByte p2, sevenByte p3, sevenByte p4, sevenByte p5, sevenByte p6, sevenByte h], []⟩

/-! ## A row's bits as a transaction (log 21) -/

/-- The profile whose every bit is 0: keys of the two known lengths, ranges and address 0, empty tables. -/
def zeroProfile : Profile :=
  { modelId := 0, ckVariant := .rolling, midiKey := rep 0 5, appKey := rep 0 56, encLo := 0, encHi := 0, appStart := 0,
    layout := [], signatures := [], blOffsets := ⟨(0, 0), (0, 0), (0, 0), (0, 0), (0, 0)⟩ }

/-- The operands of zeros of an operation: a buffer has the length the table gives it, the shortest one it allows where it
gives none. -/
def zeroOperands : Op → List Operand
  | .pack => [.buf []]
  | .unpack => [.buf []]
  | .xork => [.buf [0], .buf []]
  | .csum => [.buf (rep 0 256)]
  | .bac => [.half 0, .buf (rep 0 4096)]
  | .envReset => []
  | .envFeed => [.byte 0]
  | .envEnd => []
  | .envScan => [.buf []]
  | .envBuild => [.byte 0, .byte 0, .byte 0, .buf []]
  | .envDetect => [.buf []]
  | .sbBuild => [.half 0, .buf (rep 0 256)]
  | .sbParse => [.buf (rep 0 259)]
  | .msgBuild => [.buf []]
  | .sbWrap => [.profile zeroProfile, .buf (rep 0 259)]
  | .asmReset => []
  | .asmPreset => [.profile zeroProfile]
  | .asmIdent => [.buf (rep 0 259), .seven 0]
  | .asmAccept => [.event ⟨0, 0, 0, []⟩]
  | .asmGetblocks => []
  | .flashview => [.map []]
  | .decodeStream => [.buf []]
  | .encodeImage => [.profile zeroProfile, .num 0, .buf [], .texts []]
  | .partSens => [.map [], .num 0, .num 0]
  | .partFill => [.map [], .num 0, .num 0]
  | .appkeyRecover => [.map [], .profile zeroProfile]
  | .partAppdec => [.buf [], .buf (rep 0 56)]

/-- `w` as `n` bytes, the most significant first: the table numbers a form's bytes "byte 0 most significant". -/
def bytesOfNat : Nat → Nat → Buffer
  | 0, _ => []
  | n + 1, w => BitVec.ofNat 8 (w / 256 ^ n) :: bytesOfNat n w

/-- The transaction whose first `nbits` bits are `w` as the table numbers them and whose every other operand bit is 0. The
width tells the format: 8 bits an `OP`, 16 a record's number, 56 an event's bytes 0..6 (its end byte 0xF7 is fixed by the
row's encoding), 64 a group. -/
def tableTransaction (nbits w : Nat) : Option Transaction :=
  if nbits = 8 then
    some (opTransaction (BitVec.ofNat 8 w) (((opOfCode (BitVec.ofNat 8 w)).map zeroOperands).getD []))
  else if nbits = 16 then some ⟨.record, bytesOfNat 2 w ++ rep 0 257, [.profile zeroProfile]⟩
  else if nbits = 56 then some ⟨.event, bytesOfNat 7 w ++ [Config.endByte], []⟩
  else if nbits = 64 then some ⟨.group, bytesOfNat 8 w, []⟩
  else none

/-- The instruction the decoder reads from a row's bits. -/
def decodeTableWord (nbits w : Nat) : Option Instr :=
  (tableTransaction nbits w).bind fun t => (decode t).toOption

end Sys2Proof
end

