-- ==== Sys2Proof/Machine/State.lean ====
section
/-! DEFINITION. The state of the engine (spec/10_state.md R20 to R41), the fault and skip kinds (spec/60_exceptions.md R220),
the answer of a transaction (R35, R230), the reasons a step stops, and the state after reset (R40). -/

namespace Sys2Proof.Machine

/-- `st`, the parser state (R26). FINALIZE "is never the value of `st` between two steps". -/
inductive ParserState where
  | searching
  | inEvent
  | finalize
deriving DecidableEq, Repr

/-- The ten kinds of R220, in the order of their codes. -/
inductive Kind where
  | malformedEnvelope
  | badLength
  | checksumMismatch
  | unknownCommand
  | ambiguousProfile
  | unknownProfile
  | unsupportedDevice
  | shortBlock
  | badAddress
  | trailingGarbage
deriving DecidableEq, Repr

/-- A raised fault: its kind and what it records (R220). -/
inductive Raised where
  /-- `BadLength`: the offending length. -/
  | badLength (len : Nat)
  /-- `ChecksumMismatch`: sub-block number, transmitted and computed checksum. -/
  | checksumMismatch (sub : Half) (sent computed : Byte)
  /-- `AmbiguousProfile`: model ID, number of candidates. -/
  | ambiguousProfile (modelId : Seven) (candidates : Nat)
  /-- `UnsupportedDevice`: the profile. -/
  | unsupportedDevice (p : Profile)
  /-- `ShortBlock`: the offending length. -/
  | shortBlock (len : Nat)
  /-- `BadAddress`: the address, and the block count when the range is at fault (R184). -/
  | badAddress (address : Nat) (blocks : Option Nat)
deriving DecidableEq, Repr

/-- Which of the four envelope defects was met (R143, R144, R145). -/
inductive EnvelopeFlaw where
  | badTerminator (t : Byte)
  | wrongVendor
  | truncatedHeader
  | truncatedEvent
deriving DecidableEq, Repr

/-- An entry of `skiplog`: kind and info (R27, R220, R226). -/
inductive Skip where
  /-- `MalformedEnvelope`: the dropped bytes. -/
  | malformedEnvelope (flaw : EnvelopeFlaw) (dropped : Buffer)
  /-- `UnknownCommand`: the command byte. -/
  | unknownCommand (command : Seven)
  /-- `TrailingGarbage`: the byte. -/
  | trailingGarbage (b : Byte)
deriving DecidableEq, Repr

/-- `asm_status` (R33). -/
inductive AsmStatus where
  | ok
  | faulted (k : Kind)
deriving DecidableEq, Repr

/-- `format`, the tag of the decode output (R32, R38). -/
inductive FormatTag where
  | sysex
  | rawBinary
deriving DecidableEq, Repr

/-- The sub-block store: 16-bit keys as naturals, 256-byte values, strictly rising; a key not listed is absent and has no
value (R28, log 15). -/
abbrev Memory := List (Nat × Buffer)

/-- The result of DECODE (R38, R174). -/
structure Bundle where
  profile : Option Profile
  blocks : BlockMap
  format : FormatTag
  messages : Texts
  model : Option Seven
deriving DecidableEq, Repr

/-- What the last transaction returned to the host (R35, R230): a result, or the kind and record of a fault (log 3, 5). -/
inductive Answer where
  /-- No transaction has completed since reset. -/
  | idle
  /-- Completed; the operation has no result. -/
  | done
  | bytes (b : Buffer)
  | byte (b : Byte)
  /-- The result of ENV.FEED: nothing, or one event. -/
  | event (e : Option Event)
  | events (es : List Event)
  | verdict (f : Bool)
  /-- The result of SB.PARSE: sub-block number, checksum byte, data. -/
  | record (sub : Half) (ck : Byte) (data : Buffer)
  | profile (p : Profile)
  | blocks (m : BlockMap)
  | bundle (b : Bundle)
  /-- The result of PART.SENS: index of the first emitted block, and the image. -/
  | rendering (first : Option Nat) (img : Buffer)
  /-- The operation ended with a fault and has no result. -/
  | raised (r : Raised)
deriving DecidableEq, Repr

/-- The machine's state. -/
structure State where
  /-- U5: the parser state (R26). -/
  st : ParserState
  /-- U5: the bytes since the last 0xF0 (R26). -/
  acc : Buffer
  /-- U5: the skip log (R27, R226). -/
  skiplog : List Skip
  /-- U6: the sub-block store (R28). -/
  store : Memory
  /-- U6: the selected profile, or null (R29). -/
  prof : Option Profile
  /-- U6: flash sub-block events accepted in this pass (R30). -/
  ord : Nat
  /-- U6: display messages in order of arrival, with their ordinals (R31). -/
  msgs : Texts
  /-- U6: the model ID of the first 0x34 event (R32). -/
  seenModel : Option Seven
  /-- U6: the format tag of the decode output (R32, log 17). -/
  format : FormatTag
  /-- U6: OK or FAULTED (R33). -/
  asmStatus : AsmStatus
  /-- Configuration: the ordered registry `PROFILES` (R11, R252, log 4). No operation writes it. -/
  profiles : List Profile
  /-- The model's own: transactions the host has presented and the engine has not begun (D1, log 1). -/
  pending : List Transaction
  /-- The model's own: what the last transaction returned (log 3). -/
  answer : Answer
deriving DecidableEq, Repr

/-- Why the machine stops with a fault. The spec's own faults (R220) are no stops: they are next states (log 5). -/
inductive Fault where
  /-- Raised by `step`: the operands beside the assigned `OP` code are not those the operation takes, so no operation can
  begin. The spec gives operands as typed values (D1). Safe: the model stops. Log 20. -/
  | badOperands (code : Byte)
deriving DecidableEq, Repr

/-- Why an instruction is given no meaning: the refusals of R233 and of the transaction interface. Each is safe: nothing can
be proved of a run that goes on. -/
inductive Refusal where
  /-- Raised by a dispatch arm that has no meaning yet; no arm of this model is one. -/
  | notModelled (mnemonic : String)
  /-- Raised by `step`: "Every `OP` value not listed is unassigned; a model refuses it" (R81, X13). -/
  | unassignedOp (code : Byte)
  /-- Raised by `step`: the bytes are no form of the format they were presented in (log 11). -/
  | noSuchForm (f : Format)
  /-- Raised by XORK, and by the operations composed of it, on an empty key (R110, D7). -/
  | emptyKey
  /-- Raised by BAC on a buffer that is not 4096 bytes (R132, D9). -/
  | blockLength (len : Nat)
  /-- Raised by ENV.BUILD on a byte with bit 7 set (R148, D13). -/
  | uncleanByte
  /-- Raised by ASM.ACCEPT, ASM.PRESET, ASM.IDENT, ASM.GETBLOCKS and the wire forms the assembler handles, while `asm_status`
  is FAULTED (R231, R233, D21, log 14). -/
  | passFaulted
  /-- Raised by ASM.PRESET when a profile is already set (R162, D18). -/
  | profileAlreadySet
  /-- Raised by DECODE on a buffer the detector rejects (R174, D25). -/
  | notSysex
deriving DecidableEq, Repr

/-- The outcome of one step. -/
abbrev Outcome := Host.Outcome State Fault Refusal

/-- The machine right after reset: the table of R40, nothing in the registry, nothing presented, nothing answered
(log 1, 3, 4, 17). -/
def State.reset : State :=
  { st := .searching, acc := [], skiplog := [], store := [], prof := none, ord := 0, msgs := [], seenModel := none,
    format := .sysex, asmStatus := .ok, profiles := [], pending := [], answer := .idle }

end Sys2Proof.Machine
end

