-- ==== Sys2Proof/Machine/Ops.lean ====
section
/-! DEFINITION. The named operations over State that the meanings share: delivering a result, taking a fault and leaving the
FAULTED status (spec/60_exceptions.md R230 to R232), the skip log (R226), the two store primitives (spec/20_memory.md R50),
keyed lookup, and fetching the next transaction (D1). -/

namespace Sys2Proof.Machine

/-! ## A computation that ends with a value, a fault or a refusal -/

/-- What a stateless operation ends with: "a result, a fault or a refusal" (R266). -/
inductive Calc (α : Type) where
  | value (a : α)
  | raise (r : Raised)
  | refuse (r : Refusal)
deriving DecidableEq, Repr

/-- Go on with the value; a fault or a refusal ends the whole operation. -/
def Calc.andThen {α β : Type} (c : Calc α) (f : α → Calc β) : Calc β :=
  match c with
  | .value a => f a
  | .raise r => .raise r
  | .refuse r => .refuse r

/-- The concatenation of what `f` emits for each item in order; the first fault or refusal ends it. -/
def gather {α : Type} (f : α → Calc Buffer) : List α → Calc Buffer
  | [] => .value []
  | a :: as => (f a).andThen fun b => (gather f as).andThen fun bs => .value (b ++ bs)

/-! ## Faults -/

/-- The kind of a raised fault (R220). -/
def Raised.kind : Raised → Kind
  | .badLength _ => .badLength
  | .checksumMismatch _ _ _ => .checksumMismatch
  | .ambiguousProfile _ _ => .ambiguousProfile
  | .unsupportedDevice _ => .unsupportedDevice
  | .shortBlock _ => .shortBlock
  | .badAddress _ _ => .badAddress

/-- The numeric code of a kind (R220, D5). -/
def Kind.code : Kind → Nat
  | .malformedEnvelope => 1
  | .badLength => 2
  | .checksumMismatch => 3
  | .unknownCommand => 4
  | .ambiguousProfile => 5
  | .unknownProfile => 6
  | .unsupportedDevice => 7
  | .shortBlock => 8
  | .badAddress => 9
  | .trailingGarbage => 10

/-- Return a result to the host. -/
def State.answered (s : State) (a : Answer) : State := { s with answer := a }

/-- TAKING A FAULT. "The operation returns the kind and its record instead of a result. There is no saved context, no vector
and no mode change; control is simply back with the host" (R230). Inside a decode pass the status becomes FAULTED (R231). -/
def takeFault (inPass : Bool) (r : Raised) (s : State) : State :=
  { s with
    asmStatus := if inPass then .faulted r.kind else s.asmStatus
    answer := .raised r }

/-- LEAVING A FAULT: "There is no return-from-fault operation" (R232); ASM.RESET is "the only way out of `FAULTED`" (R161). -/
def resetAssembler (s : State) : State :=
  { s with store := [], prof := none, ord := 0, msgs := [], seenModel := none, asmStatus := .ok }

/-- End a stateless operation. -/
def deliver {α : Type} (c : Calc α) (wrap : α → Answer) (s : State) : Outcome :=
  match c with
  | .value a => .next (s.answered (wrap a))
  | .raise r => .next (takeFault false r s)
  | .refuse r => .refused r

/-- Operations refused while `asm_status` is FAULTED (R231, R233). -/
def whileOk (s : State) (f : Outcome) : Outcome :=
  match s.asmStatus with
  | .ok => f
  | .faulted _ => .refused .passFaulted

/-! ## The skip log -/

/-- "Every skip appends `(kind, info)` to `skiplog` and has no other effect" (R226). -/
def State.skipped (s : State) (k : Skip) : State := { s with skiplog := s.skiplog ++ [k] }

/-! ## The store -/

/-- The value of a key in an association list, if present. -/
def lookupKey (k : Nat) : List (Nat × Buffer) → Option Buffer
  | [] => none
  | (a, v) :: rest => if a = k then some v else lookupKey k rest

/-- `MemRead(sub, 256)`: "the value of key `sub`; defined only when the key is present" (R50). -/
def Memory.read (m : Memory) (sub : Nat) : Option Buffer := lookupKey sub m

/-- `present(sub)` (R50). -/
def Memory.present (m : Memory) (sub : Nat) : Bool := (m.read sub).isSome

/-- One byte of the value of a key. -/
def Memory.readByte (m : Memory) (sub offset : Nat) : Option Byte := (m.read sub).bind (·[offset]?)

/-- `MemWrite(sub, 256, data)`: "make key `sub` present with the 256-byte value `data`, replacing any earlier value" (R50). -/
def Memory.write (m : Memory) (sub : Nat) (data : Buffer) : Memory :=
  match m with
  | [] => [(sub, data)]
  | (a, v) :: rest =>
    if sub < a then (sub, data) :: (a, v) :: rest
    else if sub = a then (sub, data) :: rest
    else (a, v) :: Memory.write rest sub data

/-- The canonical form: keys strictly rising and 16 bits wide, every value exactly 256 bytes (R28). -/
abbrev Memory.wf (m : Memory) : Prop :=
  m.Pairwise (fun x y => x.1 < y.1) ∧ ∀ c ∈ m, c.1 < 0x10000 ∧ c.2.length = Config.subBytes

/-- The concatenation of the values of the keys in order, if every one is present. -/
def Memory.readAll (m : Memory) : List Nat → Option Buffer
  | [] => some []
  | k :: ks =>
    match m.read k, Memory.readAll m ks with
    | some v, some vs => some (v ++ vs)
    | _, _ => none

/-! ## Fetching -/

/-- The next transaction of the host and the state once it has been taken (D1, R21). -/
def fetch (s : State) : Option (Transaction × State) :=
  match s.pending with
  | [] => none
  | t :: rest => some (t, { s with pending := rest })

/-- Present a transaction as the next one the engine takes. -/
def present (t : Transaction) (s : State) : State := { s with pending := t :: s.pending }

end Sys2Proof.Machine
end

