-- ==== Sys2Proof/Machine/Operands.lean ====
section
/-! DEFINITION. Operand assembly (spec/30_encoding.md R75 to R79; spec/20_memory.md R51, R55): slices of buffers, the fields of
a record, sub-block numbers, padding. -/

namespace Sys2Proof.Machine

/-- `len` bytes of a buffer from index `off` (R14: `x[off .. off+len-1]`). -/
def slice (x : Buffer) (off len : Nat) : Buffer := (x.drop off).take len

/-- The sub-block number of a record, big-endian (R51, R76). -/
def recNumber (r : Buffer) : Half := r.getD 0 0 ++ r.getD 1 0

/-- The checksum byte of a record (R76). -/
def recChecksum (r : Buffer) : Byte := r.getD 2 0

/-- The data of a record, offsets 3..258 (R76). -/
def recData (r : Buffer) : Buffer := slice r 3 256

/-- The number of sub-block `s` of block `blk` (R77). -/
def subNumber (blk s : Nat) : Half := BitVec.ofNat 16 ((blk <<< 4) ||| s)

/-- The block index of a flash address (R77: `flashAddress >> 12`). -/
def blockOfAddress (a : Nat) : Nat := a >>> 12

/-- How many 4096-byte blocks a buffer of `n` bytes takes (R184: `⌈n/4096⌉`). -/
def blocksOf (n : Nat) : Nat := (n + 4095) / 4096

/-- "Pad the buffer with `0xFF` up to the next multiple of 4096" (R184, R186). -/
def padBlocks (b : Buffer) : Buffer := b ++ rep 0xFF (4096 * blocksOf b.length - b.length)

/-- "NUL-padded to 256 bytes" (R75, R182). -/
def padText (text : Buffer) : Buffer := text ++ rep 0x00 (256 - text.length)

/-- "bytes up to (but excluding) the first zero byte" (R165). -/
def textOf (data : Buffer) : Buffer := data.takeWhile (fun b => b != 0)

/-- The sixteen keys of block `i`, `(i<<4)+0 .. (i<<4)+15` (R170). -/
def blockKeys (i : Nat) : List Nat := (List.range 16).map fun s => (i <<< 4) + s

end Sys2Proof.Machine
end

