-- ==== Sys2Proof/Machine/BlockCipher.lean ====
section
/-! DEFINITION. U4, the 16-bit block-address stream cipher (spec/43_block_address_cipher.md R130 to R137). -/

namespace Sys2Proof.Machine

/-- `BAC_POLY` (R10, R131). -/
def bacPoly : Half := 0x8005

/-- `BAC_MAGIC` (R10, R130). -/
def bacMagic : Half := 0x545A

/-- The initial key: the base block number, or the magic for block 0 (R130). -/
def keyInit (base : Half) : Half := if base = 0 then bacMagic else base

/-- The key update, run before each word (R131). -/
def keyUpdate (k : Half) : Half := (if k &&& 1 = 1 then k ^^^ bacPoly else k) >>> 1

/-- The words of a block under the key stream, low byte first (R52, R132). -/
def cipherWords : Half → Buffer → Buffer
  | k, lo :: hi :: rest =>
    (lo ^^^ (keyUpdate k).extractLsb' 0 8) :: (hi ^^^ (keyUpdate k).extractLsb' 8 8) :: cipherWords (keyUpdate k) rest
  | _, short => short

/-- The cipher over a block (R132). -/
def cipher (base : Half) (blk : Buffer) : Buffer := cipherWords (keyInit base) blk

/-- `BAC base, blk` (R132): a buffer that is not 4096 bytes is refused (D9). -/
def bac (base : Half) (blk : Buffer) : Calc Buffer :=
  if blk.length = 4096 then .value (cipher base blk) else .refuse (.blockLength blk.length)

/-- Where the cipher applies: `ENC_LO ≤ blk ≤ ENC_HI`, both ends included (R135). -/
def inEncryptedRange (p : Profile) (blk : Nat) : Bool := decide (p.encLo ≤ blk) && decide (blk ≤ p.encHi)

/-- BAC (R132). -/
def execBac (base : Half) (blk : Buffer) (s : State) : Outcome := deliver (bac base blk) .bytes s

end Sys2Proof.Machine
end

