-- ==== Sys2Proof/Machine/Checksum.lean ====
section
/-! DEFINITION. U3, the 8-bit rolling checksum (spec/42_checksum.md R120 to R126). -/

namespace Sys2Proof.Machine

/-- `CK_MASK` (R120). -/
def ckMask : Byte := 0x19

/-- `CK_FINAL` (R120). -/
def ckFinal : Byte := 0xBF

/-- The working registers of U3 (R24). -/
structure CkRegs where
  c : Byte
  b : Byte
deriving DecidableEq, Repr

/-- `ror8`: "Rotate `c` right by one bit within 8 bits" (R14, R121). -/
def ror8 (c : Byte) : Byte := ((c &&& 1) <<< 7) ||| (c >>> 1)

/-- One bit-round: the conditional XOR, the shift of `b`, the rotate of `c`, in that order (R121). -/
def ckRound (r : CkRegs) : CkRegs :=
  let c := if (r.b ^^^ r.c) &&& 1 = 0 then r.c ^^^ ckMask else r.c
  { c := ror8 c, b := r.b >>> 1 }

/-- `n` bit-rounds. -/
def ckRounds : Nat → CkRegs → CkRegs
  | 0, r => r
  | n + 1, r => ckRounds n (ckRound r)

/-- The state `c` after one input byte: eight bit-rounds (R121). -/
def ckByte (c b : Byte) : Byte := (ckRounds 8 ⟨c, b⟩).c

/-- The state after the bytes of a buffer, from the state `c` on (R121). The split on its value makes Lean's kernel evaluate it
after every byte; `ckBytes_eq_foldl` says that this is the fold of `ckByte`. -/
def ckBytes : Buffer → Byte → Byte
  | [], c => c
  | b :: bs, c =>
    match (ckByte c b).toNat with
    | 0 => ckBytes bs 0
    | n + 1 => ckBytes bs (BitVec.ofNat 8 (n + 1))

/-- `ck(data)`: `c` starts at 0, the final XOR is 0xBF (R121). -/
def ck (data : Buffer) : Byte := ckBytes data 0 ^^^ ckFinal

/-- `CSUM data` (R122): `BadLength` unless 256 bytes (D8). -/
def csum (data : Buffer) : Calc Byte :=
  if data.length = 256 then .value (ck data) else .raise (.badLength data.length)

/-- CSUM (R122). -/
def execCsum (data : Buffer) (s : State) : Outcome := deliver (csum data) .byte s

end Sys2Proof.Machine
end

