-- ==== Sys2Proof/Machine/Flags.lean ====
section
/-! DEFINITION. "Three Boolean results act as flags for the host" (spec/10_state.md R35): the well-formedness of a parsed
event, the ENV.DETECT verdict, the checksum comparison. No operation reads a flag that an earlier one set. -/

namespace Sys2Proof.Machine

/-- "if that terminator is `0xF7`, the event is well-formed" (R143). -/
def terminatorOk (t : Byte) : Bool := t = Config.endByte

/-- The verdict of ENV.DETECT (R150). -/
def detect (buf : Buffer) : Bool :=
  decide (2 ≤ buf.length) && decide (buf.head? = some Config.startByte) && decide (buf.getLast? = some Config.endByte)
    && (slice buf 1 (buf.length - 2)).all fun b => decide (b < 0x80) || decide (0xF0 ≤ b)

/-- The checksum comparison of step 5 and of the trial: the computed checksum of the data equals the transmitted byte
(R123, R163, R166). -/
def checksumOk (data : Buffer) (sent : Byte) : Bool := ck data = sent

end Sys2Proof.Machine
end

