-- ==== Sys2Proof/Machine/Envelope.lean ====
section
/-! DEFINITION. U5, the SysEx envelope parser, builder and detector (spec/44_envelope.md R140 to R153). -/

namespace Sys2Proof.Machine

/-- The parser registers at reset (R140). -/
def resetParser (s : State) : State := { s with st := .searching, acc := [], skiplog := [] }

/-- `HEADER(body)`: the vendor test first, then the header length (R144, R229). -/
def header (body : Buffer) (s : State) : State × Option Event :=
  if body.take 3 = Config.vendor then
    match body.drop 3 with
    | d :: m :: c :: payload => (s, some ⟨d.setWidth 7, m.setWidth 7, c.setWidth 7, payload⟩)
    | _ => (s.skipped (.malformedEnvelope .truncatedHeader body), none)
  else (s.skipped (.malformedEnvelope .wrongVendor body), none)

/-- `FINALIZE(t)`, the work done on the terminator within the step that consumes it (R143). -/
def finalize (t : Byte) (s : State) : State × Option Event :=
  if terminatorOk t then header s.acc { s with st := .searching, acc := [] }
  else
    ({ s with st := if t = Config.startByte then .inEvent else .searching, acc := [] }.skipped
      (.malformedEnvelope (.badTerminator t) s.acc), none)

/-- One byte into the parser (R141). The value FINALIZE of `st` is met only between the two halves of one step; a byte fed in
it is the terminator (log 7). -/
def feedByte (b : Byte) (s : State) : State × Option Event :=
  match s.st with
  | .searching =>
    if b = Config.startByte then ({ s with st := .inEvent, acc := [] }, none) else (s.skipped (.trailingGarbage b), none)
  | .inEvent => if clean b then ({ s with acc := s.acc ++ [b] }, none) else finalize b { s with st := .finalize }
  | .finalize => finalize b s

/-- The end of the input: an event in progress is skipped (R145). -/
def endInput (s : State) : State :=
  match s.st with
  | .inEvent => { s with st := .searching, acc := [] }.skipped (.malformedEnvelope .truncatedEvent s.acc)
  | _ => s

/-- Every byte of a buffer in order, with the events returned (R146). -/
def feedAll : Buffer → State → State × List Event
  | [], s => (s, [])
  | b :: bs, s =>
    let r := feedByte b s
    let rest := feedAll bs r.1
    (rest.1, r.2.toList ++ rest.2)

/-- `ENV.SCAN buf`: reset, feed every byte, end (R146). -/
def scan (buf : Buffer) (s : State) : State × List Event :=
  let r := feedAll buf (resetParser s)
  (endInput r.1, r.2)

/-- `ENV.BUILD` (R148): refused unless every operand byte is 7-bit clean (D13). -/
def buildEvent (d m c : Byte) (payload : Buffer) : Calc Buffer :=
  if clean d && clean m && clean c && payload.all clean then .value (eventBytesOf d m c payload) else .refuse .uncleanByte

/-- ENV.RESET (R140). -/
def execEnvReset (s : State) : Outcome := .next ((resetParser s).answered .done)

/-- ENV.FEED (R141 to R144). -/
def execEnvFeed (b : Byte) (s : State) : Outcome :=
  let r := feedByte b s
  .next (r.1.answered (.event r.2))

/-- ENV.END (R145). -/
def execEnvEnd (s : State) : Outcome := .next ((endInput s).answered .done)

/-- ENV.SCAN (R146). -/
def execEnvScan (buf : Buffer) (s : State) : Outcome :=
  let r := scan buf s
  .next (r.1.answered (.events r.2))

/-- ENV.BUILD (R148). -/
def execEnvBuild (deviceId modelId command : Byte) (payload : Buffer) (s : State) : Outcome :=
  deliver (buildEvent deviceId modelId command payload) .bytes s

/-- ENV.DETECT (R150). -/
def execEnvDetect (buf : Buffer) (s : State) : Outcome := .next (s.answered (.verdict (detect buf)))

end Sys2Proof.Machine
end

