-- ==== Sys2Proof/Machine/Packer.lean ====
section
/-! DEFINITION. U1, the 7/8 bit-packer (spec/40_bitpacker.md R100 to R106; format GRP, spec/30_encoding.md R73, R78). -/

namespace Sys2Proof.Machine

/-- The low seven bits of a byte, `b & 0x7F` (R73). -/
def low7 (b : Byte) : Byte := b &&& 0x7F

/-- `H` of a group of seven bytes: bit `6-i` is bit 7 of `b_i` (R53, R100). -/
def highBits (b : Nat → Byte) : Byte :=
  (b 0 >>> 7) <<< 6 ||| (b 1 >>> 7) <<< 5 ||| (b 2 >>> 7) <<< 4 ||| (b 3 >>> 7) <<< 3 ||| (b 4 >>> 7) <<< 2
    ||| (b 5 >>> 7) <<< 1 ||| (b 6 >>> 7) <<< 0

/-- One group: the eight bytes for at most seven bytes, short groups padded with zeros (R100). -/
def packGroup (c : Buffer) : Buffer :=
  let b := fun i => c.getD i 0
  [low7 (b 0), low7 (b 1), low7 (b 2), low7 (b 3), low7 (b 4), low7 (b 5), low7 (b 6), highBits b]

/-- `n` groups from the front of a buffer. -/
def packGroups : Nat → Buffer → Buffer
  | 0, _ => []
  | n + 1, x => packGroup (x.take 7) ++ packGroups n (x.drop 7)

/-- `PACK x` (R100): `⌈N/7⌉` groups. -/
def pack (x : Buffer) : Buffer := packGroups ((x.length + 6) / 7) x

/-- Byte `i` of a group of eight: `p_i | ((H << (i+1)) & 0x80)` (R78, R101). -/
def unpackByte (c : Buffer) (i : Nat) : Byte := c.getD i 0 ||| ((c.getD 7 0 <<< (i + 1)) &&& 0x80)

/-- The seven bytes of a group of eight (R101). -/
def unpackGroup (c : Buffer) : Buffer :=
  [unpackByte c 0, unpackByte c 1, unpackByte c 2, unpackByte c 3, unpackByte c 4, unpackByte c 5, unpackByte c 6]

/-- `n` groups of eight from the front of a buffer. -/
def unpackGroups : Nat → Buffer → Buffer
  | 0, _ => []
  | n + 1, y => unpackGroup (y.take 8) ++ unpackGroups n (y.drop 8)

/-- `UNPACK y` (R101): "Fails with `BadLength` if `unpack` input length is not a multiple of 8." -/
def unpack (y : Buffer) : Calc Buffer :=
  if y.length % 8 = 0 then .value (unpackGroups (y.length / 8) y) else .raise (.badLength y.length)

/-- PACK (R100). -/
def execPack (x : Buffer) (s : State) : Outcome := .next (s.answered (.bytes (pack x)))

/-- UNPACK (R101, R102). -/
def execUnpack (y : Buffer) (s : State) : Outcome := deliver (unpack y) .bytes s

/-- The wire form GRP (R73): the seven bytes `b0..b6` the group is made from (log 10). -/
def execGrp (p0 p1 p2 p3 p4 p5 p6 h : Seven) (s : State) : Outcome :=
  .next (s.answered (.bytes (unpackGroup
    [sevenByte p0, sevenByte p1, sevenByte p2, sevenByte p3, sevenByte p4, sevenByte p5, sevenByte p6, sevenByte h])))

end Sys2Proof.Machine
end

