-- ==== Sys2Proof/Machine/XorCipher.lean ====
section
/-! DEFINITION. U2, the repeating-key XOR cipher (spec/41_xor_cipher.md R110 to R114). -/

namespace Sys2Proof.Machine

/-- The data XORed with the key from key position `i` on: `d'[i] = d[i] XOR k[i mod K]` (R110). -/
def xorFrom (k : Buffer) : Nat → Buffer → Buffer
  | _, [] => []
  | i, d :: ds => (d ^^^ k.getD (i % k.length) 0) :: xorFrom k (i + 1) ds

/-- `XORK k, d` (R110): the key index is 0 at `d[0]` (R253); an empty key is refused (D7). -/
def xork (k d : Buffer) : Calc Buffer :=
  if k = [] then .refuse .emptyKey else .value (xorFrom k 0 d)

/-- XORK (R110). -/
def execXork (key data : Buffer) (s : State) : Outcome := deliver (xork key data) .bytes s

end Sys2Proof.Machine
end

