-- ==== Sys2Proof/Machine/Assembler.lean ====
section
/-! DEFINITION. U6, decode side: the sparse block-map aggregator (spec/45_assembler_decode.md R160 to R175). -/

namespace Sys2Proof.Machine

/-! ## Records -/

/-- The fields of a record (R160): number, checksum byte, data. -/
structure RecFields where
  sub : Half
  sent : Byte
  data : Buffer
deriving DecidableEq, Repr

/-- `SB.PARSE r` (R160): `BadLength` below 259 bytes (D14); bytes past offset 258 are ignored. -/
def sbParse (r : Buffer) : Calc RecFields :=
  if 259 ≤ r.length then .value ⟨recNumber r, recChecksum r, recData r⟩ else .raise (.badLength r.length)

/-! ## Identification -/

/-- One trial: decrypt with the candidate's MIDI key and compare the checksum (R166). Below 259 bytes the spec states no
result (log 13). -/
def trial (u : Buffer) (p : Profile) : Calc Bool :=
  (xork p.midiKey u).andThen fun r =>
    .value (if 259 ≤ u.length then checksumOk (recData r) (recChecksum r) else Config.shortTrialMatches p.midiKey u)

/-- "The first profile whose checksum matches wins" (R166). -/
def firstMatch (u : Buffer) : List Profile → Calc (Option Profile)
  | [] => .value none
  | p :: ps => (trial u p).andThen fun ok => if ok then .value (some p) else firstMatch u ps

/-- "falls back to the profile matching the model ID byte if exactly one such profile exists, else fails with
`AmbiguousProfile`" (R166, R167). -/
def fallback (modelId : Seven) (profiles : List Profile) : Calc Profile :=
  match profiles.filter (fun p => p.modelId = modelId) with
  | [p] => .value p
  | cands => .raise (.ambiguousProfile modelId cands.length)

/-- `IDENT(u, modelId)` over the ordered registry (R166). -/
def identify (u : Buffer) (modelId : Seven) (profiles : List Profile) : Calc Profile :=
  (firstMatch u profiles).andThen fun found =>
    match found with
    | some p => .value p
    | none => fallback modelId profiles

/-! ## Accepting an event -/

/-- A fault inside a decode pass: the status becomes FAULTED, `store`, `ord` and `msgs` stay (R231). -/
def passFault (r : Raised) (s : State) : Outcome := .next (takeFault true r s)

/-- File a display message under the current ordinal; its checksum is not compared (R163 step 4, R164, R165). -/
def fileMessage (data : Buffer) (s : State) : Outcome :=
  .next ({ s with msgs := s.msgs ++ [(s.ord, textOf data)] }.answered .done)

/-- Verify and store a flash sub-block (R163 step 5). -/
def fileFlash (sub : Half) (sent : Byte) (data : Buffer) (s : State) : Outcome :=
  .next (if checksumOk data sent then { s with store := s.store.write sub.toNat data, ord := s.ord + 1 }.answered .done
    else takeFault true (.checksumMismatch sub sent (ck data)) s)

/-- File a decrypted record: 0xFF00 is a display message, anything else a flash sub-block (R80, R163). -/
def fileRecord (r : Buffer) (s : State) : Outcome :=
  match sbParse r with
  | .value f => if f.sub = Config.msgSub then fileMessage f.data s else fileFlash f.sub f.sent f.data s
  | .raise e => passFault e s
  | .refuse e => .refused e

/-- The profile of the pass: the one already selected, else the identified one (R163). -/
def passProfile (u : Buffer) (modelId : Seven) (s : State) : Calc Profile :=
  match s.prof with
  | some p => .value p
  | none => identify u modelId s.profiles

/-- The state once `seen_model` has been recorded, by the first event only (R32, R163). -/
def noteModel (modelId : Seven) (s : State) : State :=
  { s with seenModel := match s.seenModel with | none => some modelId | some m => some m }

/-- A firmware event whose payload has been unpacked to `u`, at least 259 bytes (R163). -/
def acceptUnpacked (u : Buffer) (modelId : Seven) (s : State) : Outcome :=
  match passProfile u modelId s with
  | .raise e => passFault e s
  | .refuse e => .refused e
  | .value p =>
    match xork p.midiKey u with
    | .value r => fileRecord r { s with prof := some p }
    | .raise e => passFault e { s with prof := some p }
    | .refuse e => .refused e

/-- A firmware event: unpack, then the length test, in that order (R163, R229). -/
def acceptFirmware (modelId : Seven) (payload : Buffer) (s : State) : Outcome :=
  match unpack payload with
  | .raise e => passFault e s
  | .refuse e => .refused e
  | .value u =>
    if u.length < 259 then passFault (.badLength u.length) s else acceptUnpacked u modelId (noteModel modelId s)

/-- `ASM.ACCEPT ev` (R163): a command other than 0x34 is skipped (R84). -/
def accept (ev : Event) (s : State) : Outcome :=
  whileOk s <|
    if ev.command = Config.cmdWriteFlash then acceptFirmware ev.modelId ev.payload s
    else .next ((s.skipped (.unknownCommand ev.command)).answered .done)

/-- The event that carries a record under a profile: "The record is carried as `payload = PACK(XORK(MIDI_KEY, REC))`" (R72), to
the broadcast device, with the profile's model ID and command 0x34 (R181). -/
def carry (p : Profile) (r : Buffer) : Calc Event :=
  (xork p.midiKey r).andThen fun x => .value ⟨Config.broadcastId, p.modelId, Config.cmdWriteFlash, pack x⟩

/-- `ASM.ACCEPT` of the event that carries a record (R80: "Inside a firmware event the decrypted record selects one of two
forms"). Only an acceptance writes the store (R50). -/
def acceptRecord (p : Profile) (r : Buffer) (s : State) : Outcome :=
  whileOk s <|
    match carry p r with
    | .value ev => accept ev s
    | .raise e => passFault e s
    | .refuse e => .refused e

/-- `ASM.ACCEPT` of every event in order; a fault ends the pass (R174). -/
def acceptAll : List Event → State → Outcome
  | [], s => .next s
  | ev :: evs, s =>
    match accept ev s with
    | .next t =>
      match t.asmStatus with
      | .ok => acceptAll evs t
      | .faulted _ => .next t
    | .fault f => .fault f
    | .refused r => .refused r

/-! ## The block map -/

/-- Whether block `i` is deciphered: the profile's encrypted range (R135, R170); with no profile the spec states nothing
(log 12). -/
def deciphers (prof : Option Profile) (i : Nat) : Bool :=
  match prof with
  | some p => inEncryptedRange p i
  | none => Config.nullProfileEnciphers i

/-- Block `i`, if all its sixteen sub-blocks are present (R170). -/
def blockAt (store : Memory) (prof : Option Profile) (i : Nat) : Option Buffer :=
  (store.readAll (blockKeys i)).map fun blk => if deciphers prof i then cipher (BitVec.ofNat 16 i) blk else blk

/-- The FlashBlock map: the complete blocks of 0..0x7F, in order (R170). -/
def getBlocks (store : Memory) (prof : Option Profile) : BlockMap :=
  (List.range 128).filterMap fun i => (blockAt store prof i).map fun blk => (i, blk)

/-- The block of an index of a FlashBlock map, if present (R37). -/
def BlockMap.get (m : BlockMap) (i : Nat) : Option Buffer := lookupKey i m

/-- A block, or 4 KiB of 0xFF where it is missing (R172, R207). -/
def blockOrFill (m : BlockMap) (i : Nat) : Buffer := (BlockMap.get m i).getD (rep 0xFF 4096)

/-- `FLASHVIEW map` (R172). -/
def flashView (m : BlockMap) : Buffer := (List.range 128).flatMap (blockOrFill m)

/-! ## The composite decode -/

/-- The bundle of a finished pass (R38, R174). -/
def bundleOf (s : State) : Bundle :=
  { profile := s.prof, blocks := getBlocks s.store s.prof, format := .sysex, messages := s.msgs, model := s.seenModel }

/-- The end of DECODE: the bundle, or the fault that ended the pass and no bundle (R174, R231). -/
def finishDecode (s : State) : Outcome :=
  match s.asmStatus with
  | .ok => .next ({ s with format := .sysex }.answered (.bundle (bundleOf s)))
  | .faulted _ => .next s

/-- `DECODE buf` (R83, R174): detector, scan, reset of the assembler, acceptance of every event, block map. -/
def decodeBuffer (buf : Buffer) (s : State) : Outcome :=
  if detect buf then
    let r := scan buf s
    match acceptAll r.2 (resetAssembler r.1) with
    | .next t => finishDecode t
    | .fault f => .fault f
    | .refused e => .refused e
  else .refused .notSysex

/-! ## The meanings -/

/-- SB.PARSE (R160). -/
def execSbParse (r : Buffer) (s : State) : Outcome := deliver (sbParse r) (fun f => .record f.sub f.sent f.data) s

/-- ASM.RESET (R161). -/
def execAsmReset (s : State) : Outcome := .next ((resetAssembler s).answered .done)

/-- ASM.PRESET (R162): allowed only while `prof = null` and `asm_status = OK`. -/
def execAsmPreset (p : Profile) (s : State) : Outcome :=
  whileOk s <|
    match s.prof with
    | none => .next ({ s with prof := some p }.answered .done)
    | some _ => .refused .profileAlreadySet

/-- ASM.IDENT (R166); refused while FAULTED (R233, log 14). -/
def execAsmIdent (u : Buffer) (modelId : Seven) (s : State) : Outcome :=
  whileOk s <| deliver (identify u modelId s.profiles) .profile s

/-- ASM.ACCEPT (R163). -/
def execAsmAccept (ev : Event) (s : State) : Outcome := accept ev s

/-- ASM.GETBLOCKS (R170): a pure read of the store. -/
def execAsmGetblocks (s : State) : Outcome :=
  whileOk s <| .next (s.answered (.blocks (getBlocks s.store s.prof)))

/-- FLASHVIEW (R172). -/
def execFlashview (map : BlockMap) (s : State) : Outcome := .next (s.answered (.bytes (flashView map)))

/-- DECODE (R174). -/
def execDecodeStream (buf : Buffer) (s : State) : Outcome := decodeBuffer buf s

/-- The wire form EVT.WRITE_FLASH: the event it carries is accepted (R80, R163, log 8). -/
def execEvtWriteFlash (d m : Seven) (payload : Buffer) (s : State) : Outcome :=
  accept ⟨d, m, Config.cmdWriteFlash, payload⟩ s

/-- The wire form REC.FLASH: its event is accepted, and step 5 verifies and stores it (R50, R80, R163, log 9). -/
def execRecFlash (sub : Half) (k : Byte) (data : Carried) (s : State) : Outcome :=
  acceptRecord data.profile (recordBytesOf sub k data.bytes) s

/-- The wire form REC.MSG: its event is accepted, and step 4 files the text (R80, R163, R165, log 9). -/
def execRecMsg (k : Byte) (text : Carried) (s : State) : Outcome :=
  acceptRecord text.profile (recordBytesOf Config.msgSub k text.bytes) s

end Sys2Proof.Machine
end

