-- ==== Sys2Proof/Machine/Emitter.lean ====
section
/-! DEFINITION. U6, encode side: record builder and stream emitter (spec/46_assembler_encode.md R180 to R190). It keeps no
state. -/

namespace Sys2Proof.Machine

/-- `SB.BUILD sub, payload` (R180): `ShortBlock` unless 256 bytes. -/
def sbBuild (sub : Half) (payload : Buffer) : Calc Buffer :=
  if payload.length = 256 then .value (recordBytesOf sub (ck payload) payload) else .raise (.shortBlock payload.length)

/-- `MSG.BUILD text` (R182): `ShortBlock` above 256 bytes (D23). -/
def msgBuild (text : Buffer) : Calc Buffer :=
  if text.length ≤ 256 then sbBuild Config.msgSub (padText text) else .raise (.shortBlock text.length)

/-- `SB.WRAP P, r` (R181): `ShortBlock` unless 259 bytes (D23); XOR, pack, envelope. -/
def sbWrap (p : Profile) (r : Buffer) : Calc Buffer :=
  if r.length = 259 then
    (carry p r).andThen fun ev =>
      buildEvent (sevenByte ev.deviceId) (sevenByte ev.modelId) (sevenByte ev.command) ev.payload
  else .raise (.shortBlock r.length)

/-- The display-message event queued for ordinal `o`, if any (R184, R188). -/
def emitMessage (p : Profile) (m : Texts) (o : Nat) : Calc Buffer :=
  match lookupKey o m with
  | none => .value []
  | some text => (msgBuild text).andThen (sbWrap p)

/-- The events of sub-block `s` of a block: the queued message first, then the flash record (R184 step 3). `o` is the ordinal,
`blk` the absolute block index (90_conflicts.md C4), `x` the 4096 bytes of the block as they lie in flash before MIDI. -/
def emitSub (p : Profile) (m : Texts) (blk o : Nat) (x : Buffer) (s : Nat) : Calc Buffer :=
  (emitMessage p m (o + s)).andThen fun msg =>
    ((sbBuild (subNumber blk s) (slice x (256 * s) 256)).andThen (sbWrap p)).andThen fun ev => .value (msg ++ ev)

/-- Block `i` of the padded buffer, enciphered where the range applies (R184 step 3). -/
def encipherBlock (p : Profile) (blk : Nat) (x : Buffer) : Buffer :=
  if inEncryptedRange p blk then cipher (BitVec.ofNat 16 blk) x else x

/-- The events of block `i` of the padded buffer (R184 step 3): sixteen sub-blocks from ordinal `16·i` on. -/
def emitBlock (p : Profile) (a : Nat) (b : Buffer) (m : Texts) (i : Nat) : Calc Buffer :=
  gather (emitSub p m (blockOfAddress a + i) (16 * i) (encipherBlock p (blockOfAddress a + i) (slice b (4096 * i) 4096)))
    (List.range 16)

/-- Steps 2 to 4 on the buffer of step 1: padding, block range, blocks, final message (R184). -/
def emitStream (p : Profile) (a : Nat) (m : Texts) (b : Buffer) : Calc Buffer :=
  if 0x80 < blockOfAddress a + blocksOf b.length then .raise (.badAddress a (some (blocksOf b.length)))
  else
    (gather (emitBlock p a (padBlocks b) m) (List.range (blocksOf b.length))).andThen fun stream =>
      (emitMessage p m (16 * blocksOf b.length)).andThen fun last => .value (stream ++ last)

/-- Step 1: the application XOR, only when the address is exactly `APP_START` (R184, R185). -/
def applyAppKey (p : Profile) (a : Nat) (b : Buffer) : Calc Buffer := if a = p.appStart then xork p.appKey b else .value b

/-- `ENCODE P, A, B, M` (R184), the checks in the order of R229. They also decide an address above 0x7FFFF (log 31). -/
def encodeStream (profiles : List Profile) (p : Profile) (a : Nat) (b : Buffer) (m : Texts) : Calc Buffer :=
  if p ∈ profiles then
    if a % 0x1000 = 0 then (applyAppKey p a b).andThen (emitStream p a m)
    else .raise (.badAddress a none)
  else .raise (.unsupportedDevice p)

/-- SB.BUILD (R180). -/
def execSbBuild (sub : Half) (payload : Buffer) (s : State) : Outcome := deliver (sbBuild sub payload) .bytes s

/-- MSG.BUILD (R182). -/
def execMsgBuild (text : Buffer) (s : State) : Outcome := deliver (msgBuild text) .bytes s

/-- SB.WRAP (R181). -/
def execSbWrap (p : Profile) (r : Buffer) (s : State) : Outcome := deliver (sbWrap p r) .bytes s

/-- ENCODE (R184): "no partial stream is returned". -/
def execEncodeImage (p : Profile) (a : Nat) (b : Buffer) (m : Texts) (s : State) : Outcome :=
  deliver (encodeStream s.profiles p a b m) .bytes s

end Sys2Proof.Machine
end

