-- ==== Sys2Proof/Machine/Partition.lean ====
section
/-! DEFINITION. The image partitioner (spec/47_profile_and_partition.md R206 to R209). -/

namespace Sys2Proof.Machine

/-- The block indices `lo .. hi`, none when `lo` is above `hi` (log 24). -/
def indexRange (lo hi : Nat) : List Nat := List.range' lo (hi + 1 - lo)

/-- "stop emitting at the first missing block within the range, unless no blocks have been emitted yet" (R206). -/
def renderSensitive (m : BlockMap) : List Nat → Option Nat → Buffer → Option Nat × Buffer
  | [], first, img => (first, img)
  | i :: is, first, img =>
    match BlockMap.get m i with
    | some blk => renderSensitive m is (match first with | none => some i | some f => some f) (img ++ blk)
    | none =>
      match first with
      | some f => (some f, img)
      | none => renderSensitive m is none img

/-- "substitute 4 KiB of `0xFF` for missing blocks" (R207). -/
def renderFill (m : BlockMap) (is : List Nat) : Buffer := is.flatMap (blockOrFill m)

/-- The bootloader image, if blocks 0..3 are present (R209). -/
def bootloaderImage (m : BlockMap) : Option Buffer := Memory.readAll m [0, 1, 2, 3]

/-- `APPKEY.RECOVER map, P` (R209): the two 56-byte fields at the primary profile's offsets XORed (R205, log 16). -/
def recoverAppKey (m : BlockMap) (p : Profile) : Buffer :=
  match bootloaderImage m with
  | some bl => List.zipWith (fun x y => x ^^^ y) (slice bl 0x3002 56) (slice bl 0x303A 56)
  | none => p.appKey

/-- PART.SENS (R206). -/
def execPartSens (map : BlockMap) (lo hi : Nat) (s : State) : Outcome :=
  let r := renderSensitive map (indexRange lo hi) none []
  .next (s.answered (.rendering r.1 r.2))

/-- PART.FILL (R207). -/
def execPartFill (map : BlockMap) (lo hi : Nat) (s : State) : Outcome :=
  .next (s.answered (.bytes (renderFill map (indexRange lo hi))))

/-- APPKEY.RECOVER (R209). -/
def execAppkeyRecover (map : BlockMap) (p : Profile) (s : State) : Outcome := .next (s.answered (.bytes (recoverAppKey map p)))

/-- PART.APPDEC (R208): key index 0 at the first byte of the raw image. -/
def execPartAppdec (raw key : Buffer) (s : State) : Outcome := deliver (xork key raw) .bytes s

end Sys2Proof.Machine
end

