-- ==== Sys2Proof/Machine/Dispatch.lean ====
section
/-! DEFINITION. The meaning of every instruction, one arm a constructor. -/

namespace Sys2Proof.Machine

def exec (i : Instr) (s : State) : Host.Outcome State Fault Refusal :=
  match i with
  | .pack x => Sys2Proof.Machine.execPack x s
  | .unpack y => Sys2Proof.Machine.execUnpack y s
  | .xork key data => Sys2Proof.Machine.execXork key data s
  | .csum data => Sys2Proof.Machine.execCsum data s
  | .bac base blk => Sys2Proof.Machine.execBac base blk s
  | .envReset => Sys2Proof.Machine.execEnvReset s
  | .envFeed b => Sys2Proof.Machine.execEnvFeed b s
  | .envEnd => Sys2Proof.Machine.execEnvEnd s
  | .envScan buf => Sys2Proof.Machine.execEnvScan buf s
  | .envBuild deviceId modelId command payload => Sys2Proof.Machine.execEnvBuild deviceId modelId command payload s
  | .envDetect buf => Sys2Proof.Machine.execEnvDetect buf s
  | .sbBuild sub payload => Sys2Proof.Machine.execSbBuild sub payload s
  | .sbParse r => Sys2Proof.Machine.execSbParse r s
  | .msgBuild text => Sys2Proof.Machine.execMsgBuild text s
  | .sbWrap p r => Sys2Proof.Machine.execSbWrap p r s
  | .asmReset => Sys2Proof.Machine.execAsmReset s
  | .asmPreset p => Sys2Proof.Machine.execAsmPreset p s
  | .asmIdent u modelId => Sys2Proof.Machine.execAsmIdent u modelId s
  | .asmAccept ev => Sys2Proof.Machine.execAsmAccept ev s
  | .asmGetblocks => Sys2Proof.Machine.execAsmGetblocks s
  | .flashview map => Sys2Proof.Machine.execFlashview map s
  | .decodeStream buf => Sys2Proof.Machine.execDecodeStream buf s
  | .encodeImage p a b m => Sys2Proof.Machine.execEncodeImage p a b m s
  | .partSens map lo hi => Sys2Proof.Machine.execPartSens map lo hi s
  | .partFill map lo hi => Sys2Proof.Machine.execPartFill map lo hi s
  | .appkeyRecover map p => Sys2Proof.Machine.execAppkeyRecover map p s
  | .partAppdec raw key => Sys2Proof.Machine.execPartAppdec raw key s
  | .evtWriteFlash d m payload => Sys2Proof.Machine.execEvtWriteFlash d m payload s
  | .recFlash sub k data => Sys2Proof.Machine.execRecFlash sub k data s
  | .recMsg k text => Sys2Proof.Machine.execRecMsg k text s
  | .grp p0 p1 p2 p3 p4 p5 p6 h => Sys2Proof.Machine.execGrp p0 p1 p2 p3 p4 p5 p6 h s

end Sys2Proof.Machine
end

