-- ==== Sys2Proof/Machine/Step.lean ====
section
/-! DEFINITION. One step: take the next transaction of the host, decode it, run it (spec/92_eei_decisions.md D1;
spec/10_state.md R21; log 1, 2). -/

namespace Sys2Proof.Machine

/-- How a step ends when a transaction carries no instruction (R81, X13; log 11, 20). -/
def rejected : DecodeError → Outcome
  | .unassignedOp code => .refused (.unassignedOp code)
  | .badOperands code => .fault (.badOperands code)
  | .noSuchForm f => .refused (.noSuchForm f)

/-- One transaction. With none presented the engine waits and nothing changes (log 2). -/
def step (s : State) : Host.Outcome State Fault Refusal :=
  match fetch s with
  | none => .next s
  | some (t, s') =>
    match decode t with
    | .ok i => exec i s'
    | .error e => rejected e

/-- `s` with the instruction whose table bits are `w` presented as the next transaction, its other operand bits 0 (log 21). -/
def State.withFetchWord (s : State) (nbits w : Nat) : State :=
  match tableTransaction nbits w with
  | some t => present t s
  | none => s

end Sys2Proof.Machine
end

