-- ==== Sys2Proof/Safety.lean ====
section
/-! DEFINITION. What counts as a safe state and a safe run, in the terms the statements use: the invariant every step keeps,
runs of several instructions, the events of an encoded stream, and which instructions write which register. -/

namespace Sys2Proof

/-- The bytes of a built event (R148). -/
def Event.bytes (e : Event) : Buffer := eventBytesOf (sevenByte e.deviceId) (sevenByte e.modelId) (sevenByte e.command) e.payload

end Sys2Proof

namespace Sys2Proof.Machine

/-- The invariant of the machine. Each clause names the rule it comes from. -/
structure State.Inv (s : State) : Prop where
  /-- FINALIZE "is never the value of `st` between two steps" (R26). -/
  st_between : s.st ≠ .finalize
  /-- Outside an event nothing is accumulated (R147). -/
  acc_searching : s.st = .searching → s.acc = []
  /-- Every byte accumulated is 7-bit clean (R26, R153). -/
  acc_clean : ∀ b ∈ s.acc, clean b = true
  /-- The store keeps its canonical form (R28). -/
  store_wf : Memory.wf s.store
  /-- 0xFF00 is "reserved for display-message payload, not flash" (R86). -/
  store_no_messages : s.store.present 0xFF00 = false
  /-- Only an accepted event fills the store and the messages, and it has selected a profile first (R50, R163). -/
  unselected : s.prof = none → s.store = [] ∧ s.msgs = [] ∧ s.ord = 0
  /-- Every key of the store was written by an accepted flash sub-block, which `ord` counts (R30, R50). -/
  store_le_ord : s.store.length ≤ s.ord
  /-- A text is 0..256 bytes with no zero byte (R31). -/
  msgs_text : ∀ m ∈ s.msgs, m.2.length ≤ 256 ∧ (0 : Byte) ∉ m.2
  /-- Messages stand in order of arrival, under the `ord` of their arrival (R31, R164). -/
  msgs_order : s.msgs.Pairwise (fun x y => x.1 ≤ y.1) ∧ ∀ m ∈ s.msgs, m.1 ≤ s.ord
  /-- Only the three faults of a decode pass are recorded (R163, R231). -/
  status_kind : ∀ k, s.asmStatus = .faulted k → k = .badLength ∨ k = .checksumMismatch ∨ k = .ambiguousProfile
  /-- "the CORE only ever produces `sysex`" (R32). -/
  format_sysex : s.format = .sysex
  /-- The registry holds legal profiles (R34, R252). -/
  registry_wf : ∀ p ∈ s.profiles, p.wellFormed = true
  /-- The selected profile is a legal one (R34). -/
  prof_wf : ∀ p, s.prof = some p → p.wellFormed = true

/-- The instructions run in order, with the answer each one gave; none if one of them stopped. -/
def execAll : List Instr → State → Option (State × List Answer)
  | [], s => some (s, [])
  | i :: is, s =>
    match exec i s with
    | .next t => (execAll is t).map fun r => (r.1, t.answer :: r.2)
    | .fault _ => none
    | .refused _ => none

/-- The event an answer of ENV.FEED holds, if any. -/
def Answer.event? : Answer → Option Event
  | .event e => e
  | _ => none

/-- The payload of a firmware event that carries a record under a MIDI key (R72). -/
def payloadOf (key record : Buffer) : Buffer := pack (xorFrom key 0 record)

/-! ## The stream ENCODE emits, as the list of its events -/

/-- The image as it is cut into blocks: under the application XOR when the address is exactly `APP_START` (R185), and then
padded with 0xFF to whole blocks (R186). -/
def flashImage (p : Profile) (a : Nat) (b : Buffer) : Buffer :=
  (if a = p.appStart then xorFrom p.appKey 0 b else b) ++ rep 0xFF (4096 * ((b.length + 4095) / 4096) - b.length)

/-- Block `i` of an image aimed at address `a`, enciphered with its absolute index inside the profile's range (R184 step 3). -/
def sentBlock (p : Profile) (a : Nat) (image : Buffer) (i : Nat) : Buffer :=
  if p.encLo ≤ a / 4096 + i ∧ a / 4096 + i ≤ p.encHi
  then cipher (BitVec.ofNat 16 (a / 4096 + i)) ((image.drop (4096 * i)).take 4096)
  else (image.drop (4096 * i)).take 4096

/-- The firmware event that carries a sub-block under a profile (R180, R181). -/
def firmwareEvent (p : Profile) (sub : Half) (data : Buffer) : Event :=
  ⟨0x7F, p.modelId, 0x34, payloadOf p.midiKey (recordBytesOf sub (ck data) data)⟩

/-- The event of sub-block `j` of block `i` of the image (R184 step 3). -/
def flashEvent (p : Profile) (a : Nat) (image : Buffer) (i j : Nat) : Event :=
  firmwareEvent p (BitVec.ofNat 16 (16 * (a / 4096 + i) + j)) (((sentBlock p a image i).drop (256 * j)).take 256)

/-- The event of the message queued for ordinal `o`, if there is one (R182, R184). -/
def messageEvents (p : Profile) (m : Texts) (o : Nat) : List Event :=
  match lookupKey o m with
  | none => []
  | some text => [firmwareEvent p 0xFF00 (text ++ rep 0 (256 - text.length))]

/-- "events are emitted in block-major, sub-block-minor order, with any display message for an ordinal emitted immediately
before the firmware event of that ordinal", and the message of the final ordinal last (R188, R184 step 4). -/
def streamEvents (p : Profile) (a : Nat) (image : Buffer) (m : Texts) (n : Nat) : List Event :=
  ((List.range n).flatMap fun i =>
    (List.range 16).flatMap fun j => messageEvents p m (16 * i + j) ++ [flashEvent p a image i j]) ++
  messageEvents p m (16 * n)

/-- Instructions that write `st` and `acc`. -/
def writesParser : Instr → Bool
  | .envReset | .envFeed _ | .envEnd | .envScan _ | .decodeStream _ => true
  | _ => false

/-- Instructions that hand an event to the assembler: ASM.ACCEPT, and the wire forms that are an ASM.ACCEPT of the event they
are, or that carries them (log 8, 9). -/
def acceptsEvent : Instr → Bool
  | .asmAccept _ | .evtWriteFlash _ _ _ | .recFlash _ _ _ | .recMsg _ _ => true
  | _ => false

/-- Instructions that start a decode pass anew. -/
def startsPass : Instr → Bool
  | .asmReset | .decodeStream _ => true
  | _ => false

/-- Instructions that empty the skip log first. -/
def clearsLog : Instr → Bool
  | .envReset | .envScan _ | .decodeStream _ => true
  | _ => false

/-- Two outcomes that differ at most in the skip log (R226). -/
def sameButLog : Outcome → Outcome → Prop
  | .next t, .next t' => { t with skiplog := [] } = { t' with skiplog := [] }
  | .fault f, .fault f' => f = f'
  | .refused r, .refused r' => r = r'
  | _, _ => False

end Sys2Proof.Machine
end

