-- ==== Sys2Proof/Certificates/Slice0/Obligations.lean ====
section
/-! DEFINITION. The statements for the provers. `{ s with answer := … }` as a next state says the whole frame: every other
field of the state, every byte of the store among them, is as before. -/

open Sys2Proof Sys2Proof.Machine

/-! ## Encoding -/

/-- Decoding the encoding of a well-formed instruction gives it back, every operand at every value (R70, R72, R73, R81). The
carriage of operands is the model's own (log 1). -/
def Obligations.EncodedInstructionDecodesBack : Prop :=
  ∀ i : Instr, i.wellFormed = true → decode (encode i) = .ok i

/-- What the decoder accepts is well formed (R34, R37, R80, R153; the check is the model's, log 20). -/
def Obligations.DecodedInstructionIsWellFormed : Prop :=
  ∀ (t : Transaction) (i : Instr), decode t = .ok i → i.wellFormed = true

/-- Words written out from the tables of 30_encoding.md decode to the instructions they stand for. The tables give an `OP` row no
operand bits: the operands of zeros with which decodeTableWord presents PACK and PART.APPDEC are the model's choice (log 21), as
is the profile presented beside a record form (log 9). -/
def Obligations.WordsOfTheTableDecode : Prop :=
  decodeTableWord 8 0x01 = some (.pack []) ∧
  decodeTableWord 8 0x35 = some .asmGetblocks ∧
  decodeTableWord 8 0x53 = some (.partAppdec [] (rep 0 56)) ∧
  decodeTableWord 8 0x34 = none ∧
  decode ⟨.event, [0xF0, 0x00, 0x20, 0x32, 0x7F, 0x12, 0x34, 0x01, 0x02, 0xF7], []⟩ = .ok (.evtWriteFlash 0x7F 0x12 [1, 2]) ∧
  decode ⟨.group, [0, 1, 2, 3, 4, 5, 6, 0x7F], []⟩ = .ok (.grp 0 1 2 3 4 5 6 0x7F) ∧
  decode ⟨.record, [0x07, 0xFF, 0xBF] ++ rep 0xFF 256, [.profile (Config.profileA 0x12)]⟩ =
    .ok (.recFlash 0x07FF 0xBF ⟨Config.profileA 0x12, rep 0xFF 256⟩) ∧
  decode ⟨.record, [0xFF, 0x00, 0x42] ++ rep 0 256, [.profile (Config.profileA 0x12)]⟩ =
    .ok (.recMsg 0x42 ⟨Config.profileA 0x12, rep 0 256⟩)

/-- "Every `OP` value not listed is unassigned; a model refuses it." (R81) -/
def Obligations.UnassignedOpIsRefused : Prop :=
  ∀ (s : State) (code : Byte) (operands : List Operand) (rest : List Transaction),
    s.pending = ⟨.op, [code], operands⟩ :: rest →
    code ∉ ([0x01, 0x02, 0x03, 0x04, 0x05, 0x10, 0x11, 0x12, 0x13, 0x14, 0x15, 0x20, 0x21, 0x22, 0x23, 0x30, 0x31, 0x32, 0x33,
      0x35, 0x36, 0x40, 0x41, 0x50, 0x51, 0x52, 0x53] : List Byte) →
    step s = .refused (.unassignedOp code)

/-! ## The machine -/

/-- A step runs the instruction that the next transaction of the host decodes to, the transaction being taken from the queue;
with none presented nothing changes (the model's interface, log 1, 2). A transaction that decodes to none stops: an assigned
`OP` whose operands are not its own with the fault `badOperands` (the model's choice, log 20), bytes that are no form of their
format with the refusal `noSuchForm` (the model's choice, log 11). -/
def Obligations.StepRunsTheDecodedInstruction : Prop :=
  (∀ (s : State) (t : Transaction) (rest : List Transaction) (i : Instr),
    s.pending = t :: rest → decode t = .ok i → step s = exec i { s with pending := rest }) ∧
  (∀ s : State, s.pending = [] → step s = .next s) ∧
  (∀ (s : State) (code : Byte) (operands : List Operand) (rest : List Transaction),
    s.pending = ⟨.op, [code], operands⟩ :: rest →
    code ∈ ([0x01, 0x02, 0x03, 0x04, 0x05, 0x10, 0x11, 0x12, 0x13, 0x14, 0x15, 0x20, 0x21, 0x22, 0x23, 0x30, 0x31, 0x32, 0x33,
      0x35, 0x36, 0x40, 0x41, 0x50, 0x51, 0x52, 0x53] : List Byte) →
    (∀ i, decode ⟨.op, [code], operands⟩ ≠ .ok i) → step s = .fault (.badOperands code)) ∧
  ∀ (s : State) (t : Transaction) (rest : List Transaction), s.pending = t :: rest → (∀ i, decode t ≠ .ok i) →
    (t.format = .op → t.bytes.length ≠ 1) → step s = .refused (.noSuchForm t.format)

/-- The table of R40 and R251: the parser and the assembler after reset. -/
def Obligations.ResetLeavesTheTableOfR40 : Prop :=
  State.reset.st = .searching ∧ State.reset.acc = [] ∧ State.reset.skiplog = [] ∧ State.reset.store = [] ∧
  State.reset.prof = none ∧ State.reset.ord = 0 ∧ State.reset.msgs = [] ∧ State.reset.seenModel = none ∧
  State.reset.asmStatus = .ok

/-- The invariant holds after reset. Its clauses on the format tag and on the registry rest on the reset values the model chose
for them, `sysex` (log 17) and the empty list (log 4); the others on the table of R40. -/
def Obligations.ResetSatisfiesTheInvariant : Prop := State.reset.Inv

/-- Every step keeps the invariant: the store's canonical form, the clean accumulator, `st` never FINALIZE between two steps,
the order and the shape of the messages, nothing accepted before a profile is selected, the reserved key 0xFF00 never stored, the
legal faults of a pass (R26, R28, R31, R50, R86). -/
def Obligations.EveryStepKeepsTheInvariant : Prop :=
  ∀ s t : State, s.Inv → step s = .next t → t.Inv

/-- Once FAULTED, the status stays so until ASM.RESET (which DECODE contains), and the pass is frozen (R33, R231). -/
def Obligations.FaultedStaysUntilAsmReset : Prop :=
  ∀ (i : Instr) (s t : State) (k : Kind), s.asmStatus = .faulted k → startsPass i = false → exec i s = .next t →
    t.asmStatus = .faulted k ∧ t.store = s.store ∧ t.ord = s.ord ∧ t.msgs = s.msgs ∧ t.prof = s.prof ∧
    t.seenModel = s.seenModel

/-- While FAULTED, the operations of the assembler and the wire forms it handles are refused (R231, R233). That ASM.IDENT and
the wire forms are among them is the model's reading (log 8, 9, 14). -/
def Obligations.FaultedPassRefuses : Prop :=
  ∀ (s : State) (k : Kind), s.asmStatus = .faulted k →
    (∀ ev, exec (.asmAccept ev) s = .refused .passFaulted) ∧
    (∀ p, exec (.asmPreset p) s = .refused .passFaulted) ∧
    (∀ u m, exec (.asmIdent u m) s = .refused .passFaulted) ∧
    exec .asmGetblocks s = .refused .passFaulted ∧
    (∀ d m payload, exec (.evtWriteFlash d m payload) s = .refused .passFaulted) ∧
    (∀ p sub c data, exec (.recFlash sub c ⟨p, data⟩) s = .refused .passFaulted) ∧
    ∀ p c text, exec (.recMsg c ⟨p, text⟩) s = .refused .passFaulted

/-- Which instructions write which register: the frame of the whole machine (R20, R26 to R33, R50, R57, R64). "Only `ASM.ACCEPT`
writes the store" (R50): the wire forms that write it too are the ASM.ACCEPT of an event, EVT.WRITE_FLASH of the one it is (the
model's choice, log 8), a record form of the one that carries it under the presented profile (the model's choice, log 9). That
GRP writes nothing is the model's choice (log 10), that a fault of an ASM.IDENT the host presents leaves `asm_status` as it is
its reading (log 14). -/
def Obligations.EachRegisterHasItsWriters : Prop :=
  (∀ (i : Instr) (s t : State), exec i s = .next t →
    t.profiles = s.profiles ∧ t.pending = s.pending ∧
    (writesParser i = false → t.st = s.st ∧ t.acc = s.acc) ∧
    (writesParser i = false → acceptsEvent i = false → t.skiplog = s.skiplog) ∧
    (startsPass i = false → acceptsEvent i = false →
      t.ord = s.ord ∧ t.store = s.store ∧ (∀ sub offset, t.store.readByte sub offset = s.store.readByte sub offset) ∧
      t.msgs = s.msgs ∧ t.seenModel = s.seenModel ∧ t.asmStatus = s.asmStatus) ∧
    (startsPass i = false → acceptsEvent i = false → (∀ p, i ≠ .asmPreset p) → t.prof = s.prof) ∧
    ((∀ buf, i ≠ .decodeStream buf) → t.format = s.format)) ∧
  ∀ s : State,
    (∀ d m payload, exec (.evtWriteFlash d m payload) s = exec (.asmAccept ⟨d, m, 0x34, payload⟩) s) ∧
    (∀ (p : Profile) (sub : Half) (k : Byte) (data : Buffer), p.midiKey ≠ [] → exec (.recFlash sub k ⟨p, data⟩) s =
      exec (.asmAccept ⟨0x7F, p.modelId, 0x34, payloadOf p.midiKey (recordBytesOf sub k data)⟩) s) ∧
    ∀ (p : Profile) (k : Byte) (text : Buffer), p.midiKey ≠ [] → exec (.recMsg k ⟨p, text⟩) s =
      exec (.asmAccept ⟨0x7F, p.modelId, 0x34, payloadOf p.midiKey (recordBytesOf 0xFF00 k text)⟩) s

/-- A fault is precise (R230, R231): the operation answers the kind and its record, and nothing changes but, in the acceptance
of an event, `asm_status` and what was already written of `prof` and `seen_model`. That a fault of an ASM.IDENT the host presents
leaves `asm_status` as it is is the model's reading (log 14), and that the wire forms of an event and of a record are the
acceptance of an event is its choice (log 8, 9). -/
def Obligations.FaultIsPrecise : Prop :=
  ∀ (i : Instr) (s t : State) (r : Raised), (∀ buf, i ≠ .decodeStream buf) → exec i s = .next t → t.answer = .raised r →
    t = { s with seenModel := t.seenModel, prof := t.prof, asmStatus := t.asmStatus, answer := .raised r } ∧
    (acceptsEvent i = false → t.seenModel = s.seenModel ∧ t.prof = s.prof ∧ t.asmStatus = s.asmStatus) ∧
    (acceptsEvent i = true → t.asmStatus = .faulted r.kind)

/-- "Every skip appends `(kind, info)` to `skiplog`"; "Nothing reads the log, so two runs that differ only in the log are the
same to every result of this spec." (R226) -/
def Obligations.NothingReadsTheSkipLog : Prop :=
  (∀ (i : Instr) (s : State) (l : List Skip), sameButLog (exec i s) (exec i { s with skiplog := l })) ∧
  ∀ (i : Instr) (s t : State), clearsLog i = false → exec i s = .next t → ∃ l, t.skiplog = s.skiplog ++ l

/-! ## U1, the packer -/

/-- PACK (R100): eight bytes for each group of seven, a short last group padded with zeros, `H` from the top bits. -/
def Obligations.PackEmitsGroupsOfEight : Prop :=
  ∀ (x : Buffer) (s : State), (encode (.pack x)).bytes = [0x01] ∧
    ∃ y : Buffer, exec (.pack x) s = .next { s with answer := .bytes y } ∧ y.length = 8 * ((x.length + 6) / 7) ∧
      ∀ g, g < (x.length + 6) / 7 →
        (∀ i, i < 7 → y[8 * g + i]? = some (x.getD (7 * g + i) 0 &&& 0x7F)) ∧
        ∃ H : Byte, y[8 * g + 7]? = some H ∧ H.getLsbD 7 = false ∧
          ∀ i, i < 7 → H.getLsbD (6 - i) = (x.getD (7 * g + i) 0).getLsbD 7

/-- UNPACK (R101): `BadLength` unless the length is a multiple of 8; seven bytes a group, bit 7 from `H`. -/
def Obligations.UnpackRecoversTheHighBits : Prop :=
  ∀ (y : Buffer) (s : State), (encode (.unpack y)).bytes = [0x02] ∧
    (y.length % 8 ≠ 0 → exec (.unpack y) s = .next { s with answer := .raised (.badLength y.length) }) ∧
    (y.length % 8 = 0 → ∃ x : Buffer, exec (.unpack y) s = .next { s with answer := .bytes x } ∧
      x.length = 7 * (y.length / 8) ∧
      ∀ g, g < y.length / 8 → ∀ i, i < 7 →
        x[7 * g + i]? = some (y.getD (8 * g + i) 0 ||| ((y.getD (8 * g + 7) 0 <<< (i + 1)) &&& 0x80)))

/-- The round trips of R103: `UNPACK(PACK(x))` is `x` and the zeros of its padding; `PACK(UNPACK(y))` is `y` when every byte of
`y` is 7-bit clean. -/
def Obligations.PackAndUnpackAreInverse : Prop :=
  (∀ (x : Buffer) (s : State), ∃ y : Buffer, exec (.pack x) s = .next { s with answer := .bytes y } ∧
    exec (.unpack y) s = .next { s with answer := .bytes (x ++ rep 0 (7 * ((x.length + 6) / 7) - x.length)) }) ∧
  ∀ (y : Buffer) (s : State), y.length % 8 = 0 → (∀ b ∈ y, b.toNat < 0x80) →
    ∃ x : Buffer, exec (.unpack y) s = .next { s with answer := .bytes x } ∧
      exec (.pack x) s = .next { s with answer := .bytes y }

/-- "Every byte of `PACK(x)` is in 0..0x7F" (R105). -/
def Obligations.PackedBytesAreClean : Prop :=
  ∀ (x : Buffer) (s : State), ∃ y : Buffer, exec (.pack x) s = .next { s with answer := .bytes y } ∧ ∀ b ∈ y, b.toNat ≤ 0x7F

/-- The wire form GRP (R73, R78): the seven bytes `b_i` whose low seven bits are the fields and whose bit 7 is bit `6-i` of `H`;
packing them gives the group back. That they are the answer is the model's choice (log 10). -/
def Obligations.GroupFormGivesItsSevenBytes : Prop :=
  ∀ (p0 p1 p2 p3 p4 p5 p6 h : Seven) (s : State),
    ∃ b : Buffer, exec (.grp p0 p1 p2 p3 p4 p5 p6 h) s = .next { s with answer := .bytes b } ∧ b.length = 7 ∧
      (∀ i, i < 7 → (b.getD i 0).setWidth 7 = [p0, p1, p2, p3, p4, p5, p6].getD i 0 ∧
        (b.getD i 0).getLsbD 7 = h.getLsbD (6 - i)) ∧
      exec (.pack b) s = .next { s with answer := .bytes [sevenByte p0, sevenByte p1, sevenByte p2, sevenByte p3, sevenByte p4,
        sevenByte p5, sevenByte p6, sevenByte h] }

/-! ## U2, the XOR cipher -/

/-- XORK (R110): `d'[i] = d[i] XOR k[i mod K]`; an empty key is refused. -/
def Obligations.XorkXorsWithTheCycledKey : Prop :=
  ∀ (k d : Buffer) (s : State), (encode (.xork k d)).bytes = [0x03] ∧
    (k ≠ [] → ∃ d' : Buffer, exec (.xork k d) s = .next { s with answer := .bytes d' } ∧ d'.length = d.length ∧
      ∀ i, i < d.length → d'[i]? = some (d.getD i 0 ^^^ k.getD (i % k.length) 0)) ∧
    (k = [] → exec (.xork k d) s = .refused .emptyKey)

/-- "For any `k,x`, `xor(k, xor(k, x)) == x`." (R111) -/
def Obligations.XorkTwiceIsTheIdentity : Prop :=
  ∀ (k d : Buffer) (s : State), k ≠ [] →
    ∃ d' : Buffer, exec (.xork k d) s = .next { s with answer := .bytes d' } ∧
      exec (.xork k d') s = .next { s with answer := .bytes d }

/-! ## U3, the checksum -/

/-- CSUM (R121, R122): over exactly 256 bytes, bits least significant first, the rolling state from 0, the final XOR 0xBF; any
other length raises `BadLength`. -/
def Obligations.CsumIsTheRollingChecksum : Prop :=
  ∀ (data : Buffer) (s : State), (encode (.csum data)).bytes = [0x04] ∧
    (data.length = 256 → ∃ c : Byte, exec (.csum data) s = .next { s with answer := .byte c } ∧
      c = (data.flatMap fun b => (List.range 8).map fun r => b.getLsbD r).foldl
        (fun (c : Byte) x => (if x = c.getLsbD 0 then c ^^^ 0x19 else c).rotateRight 1) 0 ^^^ 0xBF) ∧
    (data.length ≠ 256 → exec (.csum data) s = .next { s with answer := .raised (.badLength data.length) })

/-- One round in closed form, affine in the bits of `c` and of the input, and the law of R125: the effect of a difference
pattern does not depend on the data. -/
def Obligations.ChecksumIsAffine : Prop :=
  (∀ r : CkRegs, (ckRound r).c =
    ror8 (r.c ^^^ if (true ^^ r.b.getLsbD 0 ^^ r.c.getLsbD 0) = true then 0x19 else 0x00)) ∧
  (∀ c c' c'' b b' b'' : Byte, (ckRound ⟨c ^^^ c' ^^^ c'', b ^^^ b' ^^^ b''⟩).c =
    (ckRound ⟨c, b⟩).c ^^^ (ckRound ⟨c', b'⟩).c ^^^ (ckRound ⟨c'', b''⟩).c) ∧
  ∀ m d : Buffer, m.length = d.length →
    ck (List.zipWith (fun x y => x ^^^ y) m d) ^^^ ck m = ck d ^^^ ck (rep 0 d.length)

/-- "Equal inputs give equal outputs; any single-bit change in the input changes the output." (R124), for the 256-byte inputs
of CSUM, in whatever states the two checksums are taken. -/
def Obligations.ChecksumSeesEverySingleBitChange : Prop :=
  ∀ (data : Buffer) (s s' : State), data.length = 256 → ∃ c : Byte,
    exec (.csum data) s = .next { s with answer := .byte c } ∧ exec (.csum data) s' = .next { s' with answer := .byte c } ∧
    ∀ i j : Nat, i < 256 → j < 8 → ∃ c' : Byte,
      exec (.csum (data.set i (data.getD i 0 ^^^ ((1 : Byte) <<< j)))) s' = .next { s' with answer := .byte c' } ∧ c ≠ c'

/-- The checksum cannot tell the two known MIDI keys apart (R126): decrypting with the wrong one of them changes the bytes at
record offsets 4, 9, .., 254 by 0x06 and no other, and the checksum of the data not at all. The same comparison misses any
change of key byte 0, 1 or 4 of a 5-byte key and detects any change of key byte 2 or 3. -/
def Obligations.ChecksumIsBlindToTheKnownKeys : Prop :=
  (∀ (sub : Half) (data : Buffer) (s : State), data.length = 256 →
    ∃ r : Buffer, exec (.xork Config.midiKeyB (xorFrom Config.midiKeyA 0 (recordBytesOf sub (ck data) data))) s =
        .next { s with answer := .bytes r } ∧
      (∀ j, j < 259 → r[j]? = some
        (if j % 5 = 4 then (recordBytesOf sub (ck data) data).getD j 0 ^^^ 0x06
          else (recordBytesOf sub (ck data) data).getD j 0)) ∧
      exec (.csum (r.drop 3)) s = .next { s with answer := .byte (ck data) }) ∧
  ∀ (key : Buffer) (j : Nat) (d : Byte) (sub : Half) (data : Buffer) (s : State),
    key.length = 5 → j < 5 → d ≠ 0 → data.length = 256 →
    ∃ (r : Buffer) (c : Byte),
      exec (.xork (key.set j (key.getD j 0 ^^^ d)) (xorFrom key 0 (recordBytesOf sub (ck data) data))) s =
        .next { s with answer := .bytes r } ∧
      exec (.csum (r.drop 3)) s = .next { s with answer := .byte c } ∧ (c = r.getD 2 0 ↔ j = 0 ∨ j = 1 ∨ j = 4)

/-- Identification cannot separate profiles with the two known keys (R168, R258): whichever stands first in the registry is
chosen, whichever key a good record was sent with. -/
def Obligations.IdentCannotSeparateTheKnownKeys : Prop :=
  ∀ (s : State) (q : Profile) (rest : List Profile) (key : Buffer) (sub : Half) (data : Buffer) (m : Seven),
    s.asmStatus = .ok → s.profiles = q :: rest → (q.midiKey = Config.midiKeyA ∨ q.midiKey = Config.midiKeyB) →
    (key = Config.midiKeyA ∨ key = Config.midiKeyB) → data.length = 256 →
    exec (.asmIdent (xorFrom key 0 (recordBytesOf sub (ck data) data)) m) s = .next { s with answer := .profile q }

/-! ## U4, the block-address cipher -/

/-- BAC (R130, R132): the key stream from the base block number or the magic, updated before each word; the low byte of a word
XORed with the low byte of the key, the high byte with the high byte; a buffer that is not 4096 bytes is refused. -/
def Obligations.BacXorsWordsWithTheKeyStream : Prop :=
  ∀ (base : Half) (blk : Buffer) (s : State), (encode (.bac base blk)).bytes = [0x05] ∧
    (blk.length = 4096 → ∃ (K : Nat → Half) (out : Buffer),
      K 0 = (if base = 0 then 0x545A else base) ∧
      (∀ w, K (w + 1) = (if (K w).getLsbD 0 = true then K w ^^^ 0x8005 else K w) >>> 1) ∧
      exec (.bac base blk) s = .next { s with answer := .bytes out } ∧ out.length = 4096 ∧
      ∀ w, w < 2048 →
        out[2 * w]? = some (blk.getD (2 * w) 0 ^^^ (K (w + 1)).setWidth 8) ∧
        out[2 * w + 1]? = some (blk.getD (2 * w + 1) 0 ^^^ (K (w + 1) >>> 8).setWidth 8)) ∧
    (blk.length ≠ 4096 → exec (.bac base blk) s = .refused (.blockLength blk.length))

/-- "Applying §4.4 twice to the same block with the same base block number is the identity." (R133) -/
def Obligations.BacTwiceIsTheIdentity : Prop :=
  ∀ (base : Half) (blk : Buffer) (s : State), blk.length = 4096 →
    ∃ out : Buffer, exec (.bac base blk) s = .next { s with answer := .bytes out } ∧
      exec (.bac base out) s = .next { s with answer := .bytes blk }

/-- The key update and its consequences (R131): the two steps, the closed form, bit 15 clear after the first update, so bit 7 of every odd byte is
never changed; a key that starts below 0x8000 never becomes zero. -/
def Obligations.CipherKeyStaysFifteenBitsAndNonzero : Prop :=
  (∀ k : Half, keyUpdate k = (if k.getLsbD 0 = true then k ^^^ 0x8005 else k) >>> 1) ∧
  (∀ k : Half, keyUpdate k = (k >>> 1) ^^^ (if k.getLsbD 0 = true then 0x4002 else 0)) ∧
  (∀ (base : Half) (n : Nat), (keyUpdate^[n + 1] (keyInit base)).getLsbD 15 = false) ∧
  (∀ (base : Half) (n : Nat), base.toNat < 0x8000 → keyUpdate^[n] (keyInit base) ≠ 0) ∧
  ∀ (base : Half) (blk : Buffer) (s : State), blk.length = 4096 →
    ∃ out : Buffer, exec (.bac base blk) s = .next { s with answer := .bytes out } ∧
      ∀ w, w < 2048 → (out.getD (2 * w + 1) 0).getLsbD 7 = (blk.getD (2 * w + 1) 0).getLsbD 7

/-! ## U5, the envelope -/

/-- ENV.RESET (R140): "`st <- SEARCHING; acc <- []; skiplog <- empty`". -/
def Obligations.EnvResetEmptiesTheParser : Prop :=
  ∀ s : State, (encode .envReset).bytes = [0x10] ∧
    exec .envReset s = .next { s with st := .searching, acc := [], skiplog := [], answer := .done }

/-- The transition table of the parser, row by row (R147, with R141 to R145). -/
def Obligations.ParserFollowsTheTransitionTable : Prop :=
  ∀ (s : State) (b : Byte),
    (s.st = .searching → b = 0xF0 →
      exec (.envFeed b) s = .next { s with st := .inEvent, acc := [], answer := .event none }) ∧
    (s.st = .searching → b ≠ 0xF0 →
      exec (.envFeed b) s = .next { s with skiplog := s.skiplog ++ [.trailingGarbage b], answer := .event none }) ∧
    (s.st = .inEvent → b.toNat < 0x80 →
      exec (.envFeed b) s = .next { s with acc := s.acc ++ [b], answer := .event none }) ∧
    (s.st = .inEvent → b = 0xF7 →
      (∀ d m c payload, s.acc = [0x00, 0x20, 0x32] ++ d :: m :: c :: payload →
        exec (.envFeed b) s = .next { s with
          st := .searching, acc := [],
          answer := .event (some ⟨d.setWidth 7, m.setWidth 7, c.setWidth 7, payload⟩) }) ∧
      (s.acc.take 3 ≠ [0x00, 0x20, 0x32] →
        exec (.envFeed b) s = .next { s with
          st := .searching, acc := [], skiplog := s.skiplog ++ [.malformedEnvelope .wrongVendor s.acc],
          answer := .event none }) ∧
      (s.acc.take 3 = [0x00, 0x20, 0x32] → s.acc.length < 6 →
        exec (.envFeed b) s = .next { s with
          st := .searching, acc := [], skiplog := s.skiplog ++ [.malformedEnvelope .truncatedHeader s.acc],
          answer := .event none })) ∧
    (s.st = .inEvent → b = 0xF0 →
      exec (.envFeed b) s = .next { s with
        st := .inEvent, acc := [], skiplog := s.skiplog ++ [.malformedEnvelope (.badTerminator 0xF0) s.acc],
        answer := .event none }) ∧
    (s.st = .inEvent → 0x80 ≤ b.toNat → b ≠ 0xF0 → b ≠ 0xF7 →
      exec (.envFeed b) s = .next { s with
        st := .searching, acc := [], skiplog := s.skiplog ++ [.malformedEnvelope (.badTerminator b) s.acc],
        answer := .event none }) ∧
    (s.st = .inEvent →
      exec .envEnd s = .next { s with
        st := .searching, acc := [], skiplog := s.skiplog ++ [.malformedEnvelope .truncatedEvent s.acc], answer := .done }) ∧
    (s.st = .searching → exec .envEnd s = .next { s with answer := .done })

/-- ENV.SCAN (R146): the ordered list of events returned by ENV.RESET, ENV.FEED of every byte in order, ENV.END. -/
def Obligations.ScanIsResetFeedEnd : Prop :=
  ∀ (buf : Buffer) (s : State), (encode (.envScan buf)).bytes = [0x13] ∧
    ∃ (t : State) (as : List Answer),
      execAll (Instr.envReset :: buf.map Instr.envFeed ++ [Instr.envEnd]) s = some (t, as) ∧
      exec (.envScan buf) s = .next { t with answer := .events (as.filterMap Answer.event?) }

/-- Builder and parser agree (R149): the concatenation of built events scans to the list of their contents in order. -/
def Obligations.BuiltEventsScanBackInOrder : Prop :=
  ∀ (evs : List Event) (s : State), (∀ e ∈ evs, e.wellFormed = true) →
    (∀ e ∈ evs, exec (.envBuild (sevenByte e.deviceId) (sevenByte e.modelId) (sevenByte e.command) e.payload) s =
      .next { s with answer := .bytes e.bytes }) ∧
    exec (.envScan (evs.flatMap Event.bytes)) s =
      .next { s with st := .searching, acc := [], skiplog := [], answer := .events evs }

/-- ENV.BUILD (R148): "Emits `F0 00 20 32 deviceId modelId command payload F7`", of length `|payload| + 8`; a call with a byte
that is not 7-bit clean is refused. -/
def Obligations.EnvBuildEmitsTheEvent : Prop :=
  ∀ (d m c : Byte) (payload : Buffer) (s : State), (encode (.envBuild d m c payload)).bytes = [0x14] ∧
    ((d.toNat < 0x80 ∧ m.toNat < 0x80 ∧ c.toNat < 0x80 ∧ ∀ b ∈ payload, b.toNat < 0x80) →
      ∃ ev : Buffer, ev = [0xF0, 0x00, 0x20, 0x32, d, m, c] ++ payload ++ [0xF7] ∧ ev.length = payload.length + 8 ∧
        exec (.envBuild d m c payload) s = .next { s with answer := .bytes ev }) ∧
    (¬ (d.toNat < 0x80 ∧ m.toNat < 0x80 ∧ c.toNat < 0x80 ∧ ∀ b ∈ payload, b.toNat < 0x80) →
      exec (.envBuild d m c payload) s = .refused .uncleanByte)

/-- ENV.DETECT (R150): starts with 0xF0, ends with 0xF7, no interior byte 0x80..0xEF. -/
def Obligations.DetectVerdictIsTheRule : Prop :=
  ∀ (buf : Buffer) (s : State), (encode (.envDetect buf)).bytes = [0x15] ∧
    ∃ f : Bool, exec (.envDetect buf) s = .next { s with answer := .verdict f } ∧
      (f = true ↔ 2 ≤ buf.length ∧ buf[0]? = some 0xF0 ∧ buf[buf.length - 1]? = some 0xF7 ∧
        ∀ j, 1 ≤ j → j + 2 ≤ buf.length → ∀ b, buf[j]? = some b → b.toNat < 0x80 ∨ 0xF0 ≤ b.toNat)

/-- Every event the parser returns carries a 7-bit-clean payload (R71, R153). -/
def Obligations.ParsedEventsAreClean : Prop :=
  (∀ (s t : State) (b : Byte) (e : Event), (∀ x ∈ s.acc, x.toNat < 0x80) → exec (.envFeed b) s = .next t →
    t.answer = .event (some e) → ∀ x ∈ e.payload, x.toNat < 0x80) ∧
  ∀ (buf : Buffer) (s : State), ∃ (t : State) (evs : List Event), exec (.envScan buf) s = .next t ∧ t.answer = .events evs ∧
    ∀ e ∈ evs, ∀ x ∈ e.payload, x.toNat < 0x80

/-! ## U6, records -/

/-- SB.BUILD and SB.PARSE (R160, R180, R72, R76): the 259-byte record with its big-endian number and the checksum of its data,
and its fields back, whatever stands after offset 258; the length faults of both. -/
def Obligations.RecordsAreBuiltAndParsed : Prop :=
  (∀ (sub : Half) (payload : Buffer) (s : State), (encode (.sbBuild sub payload)).bytes = [0x20] ∧
    (payload.length = 256 → ∃ r : Buffer, exec (.sbBuild sub payload) s = .next { s with answer := .bytes r } ∧
      r.length = 259 ∧ r.getD 0 0 = (sub >>> 8).setWidth 8 ∧ r.getD 1 0 = sub.setWidth 8 ∧ r.getD 2 0 = ck payload ∧
      r.drop 3 = payload ∧
      ∀ extra, exec (.sbParse (r ++ extra)) s = .next { s with answer := .record sub (ck payload) payload }) ∧
    (payload.length ≠ 256 → exec (.sbBuild sub payload) s = .next { s with answer := .raised (.shortBlock payload.length) })) ∧
  ∀ (r : Buffer) (s : State), (encode (.sbParse r)).bytes = [0x21] ∧
    (259 ≤ r.length → ∃ (sub : Half) (data : Buffer), sub = ((r.getD 0 0).setWidth 16 <<< 8) ||| (r.getD 1 0).setWidth 16 ∧
      data.length = 256 ∧ (∀ j, j < 256 → data[j]? = r[3 + j]?) ∧
      exec (.sbParse r) s = .next { s with answer := .record sub (r.getD 2 0) data }) ∧
    (r.length < 259 → exec (.sbParse r) s = .next { s with answer := .raised (.badLength r.length) })

/-- MSG.BUILD and REC.MSG (R165, R182): a text of up to 256 bytes is padded with zeros, numbered 0xFF00 and checksummed; a
record form with such data, presented under the profile of the pass, files the text, cut at its first zero byte, under the
current ordinal, whatever its checksum byte. That the record form is a transaction of its own, with a profile, is the model's
choice (log 9). -/
def Obligations.MessageTextSurvivesThePadding : Prop :=
  (∀ (text : Buffer) (s : State), (encode (.msgBuild text)).bytes = [0x22] ∧
    (text.length ≤ 256 → ∃ data : Buffer, data = text ++ rep 0 (256 - text.length) ∧
      exec (.msgBuild text) s = .next { s with answer := .bytes ([0xFF, 0x00, ck data] ++ data) } ∧
      ∀ (p : Profile) (k : Byte), s.asmStatus = .ok → s.prof = some p → p.midiKey ≠ [] → (0 : Byte) ∉ text →
        exec (.recMsg k ⟨p, data⟩) s = .next { s with
          seenModel := some (s.seenModel.getD p.modelId), msgs := s.msgs ++ [(s.ord, text)], answer := .done }) ∧
    (256 < text.length → exec (.msgBuild text) s = .next { s with answer := .raised (.shortBlock text.length) })) ∧
  ∀ (p : Profile) (k : Byte) (data : Buffer) (s : State), s.asmStatus = .ok → s.prof = some p → p.midiKey ≠ [] →
    data.length = 256 → exec (.recMsg k ⟨p, data⟩) s = .next { s with
      seenModel := some (s.seenModel.getD p.modelId), msgs := s.msgs ++ [(s.ord, data.takeWhile fun b => b != 0)],
      answer := .done }

/-- SB.WRAP (R181): one event of 304 bytes, device 0x7F, the profile's model ID, command 0x34, the payload the packed
enciphered record; `ShortBlock` unless the record is 259 bytes. -/
def Obligations.WrapMakesOneFirmwareEvent : Prop :=
  ∀ (p : Profile) (r : Buffer) (s : State), p.midiKey ≠ [] → (encode (.sbWrap p r)).bytes = [0x23] ∧
    (r.length = 259 → ∃ ev : Buffer,
      ev = [0xF0, 0x00, 0x20, 0x32, 0x7F, p.modelId.setWidth 8, 0x34] ++ pack (xorFrom p.midiKey 0 r) ++ [0xF7] ∧
      ev.length = 304 ∧ exec (.sbWrap p r) s = .next { s with answer := .bytes ev }) ∧
    (r.length ≠ 259 → exec (.sbWrap p r) s = .next { s with answer := .raised (.shortBlock r.length) })

/-! ## U6, the assembler -/

/-- ASM.RESET (R161): "`store <- empty; prof <- null; ord <- 0; msgs <- []; seen_model <- none; asm_status <- OK`". -/
def Obligations.AsmResetEmptiesTheAssembler : Prop :=
  ∀ s : State, (encode .asmReset).bytes = [0x30] ∧
    exec .asmReset s = .next { s with
      store := [], prof := none, ord := 0, msgs := [], seenModel := none, asmStatus := .ok, answer := .done }

/-- ASM.PRESET (R162): `prof <- p`, "which makes `ASM.ACCEPT` skip identification": with a profile set, acceptance is the same
under every registry. "Allowed only while `prof = null` and `asm_status = OK`; otherwise refused." -/
def Obligations.PresetSetsTheProfileOnce : Prop :=
  (∀ (p : Profile) (s : State), (encode (.asmPreset p)).bytes = [0x31] ∧
    (s.prof = none → s.asmStatus = .ok → exec (.asmPreset p) s = .next { s with prof := some p, answer := .done }) ∧
    (¬ (s.prof = none ∧ s.asmStatus = .ok) → ∃ r, exec (.asmPreset p) s = .refused r)) ∧
  ∀ (p : Profile) (ev : Event) (s : State) (registry : List Profile), s.prof = some p →
    (∀ t, exec (.asmAccept ev) s = .next t →
      exec (.asmAccept ev) { s with profiles := registry } = .next { t with profiles := registry }) ∧
    ∀ r, exec (.asmAccept ev) s = .refused r → exec (.asmAccept ev) { s with profiles := registry } = .refused r

/-- ASM.IDENT on at least 259 bytes, every profile with a key (R34, R166): "The first profile whose checksum matches wins"; with no match, the one
profile of the model ID if exactly one exists, else `AmbiguousProfile` with the candidate count. -/
def Obligations.IdentTakesTheFirstMatchElseTheModelId : Prop :=
  ∀ (u : Buffer) (m : Seven) (s : State), s.asmStatus = .ok → 259 ≤ u.length → (∀ p ∈ s.profiles, p.midiKey ≠ []) →
    (encode (.asmIdent u m)).bytes = [0x32] ∧
    (∀ (before : List Profile) (p : Profile) (after : List Profile), s.profiles = before ++ p :: after →
      (∀ q ∈ before, ck (recData (xorFrom q.midiKey 0 u)) ≠ (xorFrom q.midiKey 0 u).getD 2 0) →
      ck (recData (xorFrom p.midiKey 0 u)) = (xorFrom p.midiKey 0 u).getD 2 0 →
      exec (.asmIdent u m) s = .next { s with answer := .profile p }) ∧
    ((∀ q ∈ s.profiles, ck (recData (xorFrom q.midiKey 0 u)) ≠ (xorFrom q.midiKey 0 u).getD 2 0) →
      (∀ p, (s.profiles.filter fun q => q.modelId = m) = [p] → exec (.asmIdent u m) s = .next { s with answer := .profile p }) ∧
      ((s.profiles.filter fun q => q.modelId = m).length ≠ 1 → exec (.asmIdent u m) s = .next { s with
        answer := .raised (.ambiguousProfile m (s.profiles.filter fun q => q.modelId = m).length) }))

/-- ASM.ACCEPT of a good flash record (R163 step 5, R50, D14): the data stored under its number, `ord` counted, `seen_model`
written by the first event only; bytes after the record do not matter. A checksum byte that is not `ck(data)` faults the pass
and stores nothing. The wire form EVT.WRITE_FLASH does the same (the model's choice, log 8). -/
def Obligations.AcceptStoresAVerifiedSubBlock : Prop :=
  ∀ (s : State) (p : Profile) (d m : Seven) (sub : Half) (k : Byte) (data extra : Buffer) (i : Instr),
    s.asmStatus = .ok → s.prof = some p → p.midiKey ≠ [] → sub ≠ 0xFF00 → data.length = 256 →
    (i = .asmAccept ⟨d, m, 0x34, payloadOf p.midiKey (recordBytesOf sub k data ++ extra)⟩ ∨
      i = .evtWriteFlash d m (payloadOf p.midiKey (recordBytesOf sub k data ++ extra))) →
    (k = ck data → exec i s = .next { s with
      seenModel := some (s.seenModel.getD m), store := s.store.write sub.toNat data, ord := s.ord + 1, answer := .done }) ∧
    (k ≠ ck data → exec i s = .next { s with
      seenModel := some (s.seenModel.getD m), asmStatus := .faulted .checksumMismatch,
      answer := .raised (.checksumMismatch sub k (ck data)) })

/-- ASM.ACCEPT of a display-message record (R163 step 4, R164, R165): the text, cut at its first zero byte, is filed under the
value of `ord`, which does not change; the checksum byte is not compared. The wire form EVT.WRITE_FLASH does the same (the
model's choice, log 8). -/
def Obligations.AcceptFilesADisplayMessage : Prop :=
  ∀ (s : State) (p : Profile) (d m : Seven) (k : Byte) (data extra : Buffer) (i : Instr),
    s.asmStatus = .ok → s.prof = some p → p.midiKey ≠ [] → data.length = 256 →
    (i = .asmAccept ⟨d, m, 0x34, payloadOf p.midiKey (recordBytesOf 0xFF00 k data ++ extra)⟩ ∨
      i = .evtWriteFlash d m (payloadOf p.midiKey (recordBytesOf 0xFF00 k data ++ extra))) →
    exec i s = .next { s with
      seenModel := some (s.seenModel.getD m), msgs := s.msgs ++ [(s.ord, data.takeWhile fun b => b != 0)], answer := .done }

/-- ASM.ACCEPT of a payload of a wrong length (R163, R229, D14): `BadLength` with the payload's length, or with the unpacked
length when that is below 259; the pass is FAULTED and `seen_model` is not written. The wire form EVT.WRITE_FLASH does the same
(the model's choice, log 8). -/
def Obligations.AcceptRaisesBadLength : Prop :=
  ∀ (s : State) (d m : Seven) (payload : Buffer) (i : Instr), s.asmStatus = .ok →
    (i = .asmAccept ⟨d, m, 0x34, payload⟩ ∨ i = .evtWriteFlash d m payload) →
    (payload.length % 8 ≠ 0 → exec i s = .next { s with
      asmStatus := .faulted .badLength, answer := .raised (.badLength payload.length) }) ∧
    (payload.length % 8 = 0 → payload.length < 296 → exec i s = .next { s with
      asmStatus := .faulted .badLength, answer := .raised (.badLength (7 * (payload.length / 8))) })

/-- An event of another command has "no effect on `store`, `ord`, `msgs`, `prof` or `seen_model`" and is logged (R84, R226). -/
def Obligations.UnknownCommandIsSkipped : Prop :=
  ∀ (s : State) (ev : Event), s.asmStatus = .ok → ev.command ≠ 0x34 →
    exec (.asmAccept ev) s = .next { s with skiplog := s.skiplog ++ [.unknownCommand ev.command], answer := .done }

/-- Identification inside ASM.ACCEPT (R163, R166, R231): with `prof` null, the profile ASM.IDENT answers is the one the event is
accepted with, as if it had been preset; the fault ASM.IDENT raises makes the pass FAULTED, with `seen_model` already written. -/
def Obligations.AcceptIdentifiesOnTheFirstFirmwareEvent : Prop :=
  ∀ (s : State) (d m : Seven) (payload u : Buffer), s.asmStatus = .ok → s.prof = none → 259 ≤ u.length →
    exec (.unpack payload) s = .next { s with answer := .bytes u } →
    (∀ p, exec (.asmIdent u m) s = .next { s with answer := .profile p } →
      exec (.asmAccept ⟨d, m, 0x34, payload⟩) s = exec (.asmAccept ⟨d, m, 0x34, payload⟩) { s with prof := some p }) ∧
    (∀ r, exec (.asmIdent u m) s = .next { s with answer := .raised r } →
      exec (.asmAccept ⟨d, m, 0x34, payload⟩) s = .next { s with
        seenModel := some (s.seenModel.getD m), asmStatus := .faulted r.kind, answer := .raised r })

/-- The wire form REC.FLASH, presented under the profile of the pass (R163 step 5, R50): a verified record is stored under its
number, every other key reads as before; a wrong checksum faults the pass. That a cleartext record is presented as a transaction
of its own, as the ASM.ACCEPT of the event that carries it, is the model's choice (log 9). -/
def Obligations.RecordFormStoresItsSubBlock : Prop :=
  ∀ (s : State) (p : Profile) (sub : Half) (k : Byte) (data : Buffer), s.asmStatus = .ok → s.prof = some p → p.midiKey ≠ [] →
    sub ≠ 0xFF00 → data.length = 256 →
    (k = ck data → ∃ store', exec (.recFlash sub k ⟨p, data⟩) s = .next { s with
        seenModel := some (s.seenModel.getD p.modelId), store := store', ord := s.ord + 1, answer := .done } ∧
      (∀ offset, store'.readByte sub.toNat offset = data[offset]?) ∧
      (∀ key, key ≠ sub.toNat → ∀ offset, store'.readByte key offset = s.store.readByte key offset) ∧
      ∀ key, key ≠ sub.toNat → store'.present key = s.store.present key) ∧
    (k ≠ ck data → exec (.recFlash sub k ⟨p, data⟩) s = .next { s with
      seenModel := some (s.seenModel.getD p.modelId), asmStatus := .faulted .checksumMismatch,
      answer := .raised (.checksumMismatch sub k (ck data)) })

/-- "sub-blocks arriving in any order are bucketed by sub-block number" (R50, R61, R171): two good flash events of different
numbers, accepted under the selected profile in either order, give the same state and the same answers, as far as the order does
not decide which model ID was the first one seen (R32). The wire form REC.FLASH, presented under that profile, does the same (the
model's choice, log 9). -/
def Obligations.ArrivalOrderDoesNotMatter : Prop :=
  (∀ (s : State) (p : Profile) (d d' m m' : Seven) (a b : Half) (x y extra extra' : Buffer) (e e' : Event),
    s.asmStatus = .ok → Memory.wf s.store → s.prof = some p → p.midiKey ≠ [] →
    a ≠ b → a ≠ 0xFF00 → b ≠ 0xFF00 → x.length = 256 → y.length = 256 → m = m' ∨ s.seenModel ≠ none →
    e = ⟨d, m, 0x34, payloadOf p.midiKey (recordBytesOf a (ck x) x ++ extra)⟩ →
    e' = ⟨d', m', 0x34, payloadOf p.midiKey (recordBytesOf b (ck y) y ++ extra')⟩ →
    ∃ t as, execAll [.asmAccept e, .asmAccept e'] s = some (t, as) ∧ execAll [.asmAccept e', .asmAccept e] s = some (t, as)) ∧
  ∀ (s : State) (p : Profile) (a b : Half) (x y : Buffer), s.asmStatus = .ok → Memory.wf s.store → s.prof = some p →
    p.midiKey ≠ [] → a ≠ b → a ≠ 0xFF00 → b ≠ 0xFF00 → x.length = 256 → y.length = 256 →
    ∃ t as, execAll [.recFlash a (ck x) ⟨p, x⟩, .recFlash b (ck y) ⟨p, y⟩] s = some (t, as) ∧
      execAll [.recFlash b (ck y) ⟨p, y⟩, .recFlash a (ck x) ⟨p, x⟩] s = some (t, as)

/-- ASM.GETBLOCKS (R170): a block is in the map exactly when all its sixteen sub-blocks are present, and is then their
concatenation in order, deciphered inside the profile's encrypted range; nothing else changes. With no complete block the map
is empty, whatever `prof` is. Refused while FAULTED. The store has its canonical form, as in every run (R28). -/
def Obligations.GetBlocksCollectsTheCompleteBlocks : Prop :=
  (encode .asmGetblocks).bytes = [0x35] ∧
  (∀ (s : State) (k : Kind), s.asmStatus = .faulted k → ∃ r, exec .asmGetblocks s = .refused r) ∧
  ∀ s : State, s.asmStatus = .ok → Memory.wf s.store →
    (∀ p, s.prof = some p → ∃ map : BlockMap, exec .asmGetblocks s = .next { s with answer := .blocks map } ∧
      map.Pairwise (fun x y => x.1 < y.1) ∧
      (∀ i, 0x80 ≤ i → lookupKey i map = none) ∧
      ∀ i, i < 0x80 →
        ((∃ j, j < 16 ∧ s.store.read (16 * i + j) = none) → lookupKey i map = none) ∧
        ∀ sub : Nat → Buffer, (∀ j, j < 16 → s.store.read (16 * i + j) = some (sub j)) →
          lookupKey i map = some (if p.encLo ≤ i ∧ i ≤ p.encHi
            then cipher (BitVec.ofNat 16 i) ((List.range 16).flatMap sub) else (List.range 16).flatMap sub)) ∧
    ((∀ i, i < 0x80 → ∃ j, j < 16 ∧ s.store.read (16 * i + j) = none) →
      exec .asmGetblocks s = .next { s with answer := .blocks [] })

/-- Where the spec states no value the machine goes on: ASM.GETBLOCKS with a complete block and no profile (a state that no run
reaches, since an acceptance selects a profile before it stores) answers every complete block, as stored or deciphered (log 12),
and ASM.IDENT answers a registered profile or `AmbiguousProfile` on a buffer of any length (log 13). That a free value stands
there is the model's choice. -/
def Obligations.OpenValuesDoNotStopTheRun : Prop :=
  (∀ s : State, s.asmStatus = .ok → s.prof = none →
    ∃ map : BlockMap, exec .asmGetblocks s = .next { s with answer := .blocks map } ∧
      ∀ (i : Nat) (sub : Nat → Buffer), i < 0x80 → (∀ j, j < 16 → s.store.read (16 * i + j) = some (sub j)) →
        lookupKey i map = some ((List.range 16).flatMap sub) ∨
        lookupKey i map = some (cipher (BitVec.ofNat 16 i) ((List.range 16).flatMap sub))) ∧
  ∀ (u : Buffer) (m : Seven) (s : State), s.asmStatus = .ok → (∀ p ∈ s.profiles, p.midiKey ≠ []) →
    ∃ a : Answer, exec (.asmIdent u m) s = .next { s with answer := a } ∧
      ((∃ p ∈ s.profiles, a = .profile p) ∨ ∃ n, a = .raised (.ambiguousProfile m n))

/-- FLASHVIEW and PART.FILL (R172, R207): 4096 bytes for every block of the range, 0xFF where it is missing; the full-chip view
is PART.FILL of 0..0x7F. -/
def Obligations.FullChipViewFillsWithFF : Prop :=
  ∀ (map : BlockMap) (s : State), BlockMap.wf map →
    (encode (.flashview map)).bytes = [0x36] ∧ (∀ lo hi, (encode (.partFill map lo hi)).bytes = [0x51]) ∧
    (∃ img : Buffer, exec (.flashview map) s = .next { s with answer := .bytes img } ∧
      exec (.partFill map 0 0x7F) s = .next { s with answer := .bytes img } ∧ img.length = 0x80000 ∧
      ∀ i, i < 0x80 → (img.drop (0x1000 * i)).take 4096 = (lookupKey i map).getD (rep 0xFF 4096)) ∧
    ∀ lo hi, lo ≤ hi → ∃ img : Buffer, exec (.partFill map lo hi) s = .next { s with answer := .bytes img } ∧
      img.length = (hi - lo + 1) * 4096 ∧
      ∀ i, lo ≤ i → i ≤ hi → (img.drop (4096 * (i - lo))).take 4096 = (lookupKey i map).getD (rep 0xFF 4096)

/-- PART.SENS (R206): "stop emitting at the first missing block within the range, unless no blocks have been emitted yet (in
which case start over at the next present block)". -/
def Obligations.GapSensitiveViewIsTheFirstRun : Prop :=
  ∀ (map : BlockMap) (lo hi : Nat) (s : State), (encode (.partSens map lo hi)).bytes = [0x50] ∧
    (lo ≤ hi → (∀ i, lo ≤ i → i ≤ hi → lookupKey i map = none) →
      exec (.partSens map lo hi) s = .next { s with answer := .rendering none [] }) ∧
    ∀ (f e : Nat) (blk : Nat → Buffer), lo ≤ f → f < e → e ≤ hi + 1 →
      (∀ i, lo ≤ i → i < f → lookupKey i map = none) → (∀ i, f ≤ i → i < e → lookupKey i map = some (blk i)) →
      (e = hi + 1 ∨ lookupKey e map = none) →
      exec (.partSens map lo hi) s =
        .next { s with answer := .rendering (some f) ((List.range' f (e - f)).flatMap blk) }

/-- A range whose end lies below its start renders to nothing: the loop `for i in lo .. hi` runs over no index (R206, R207). That
the loop is then empty is the model's reading (log 24). -/
def Obligations.EmptyRangeRendersNothing : Prop :=
  ∀ (map : BlockMap) (lo hi : Nat) (s : State), hi < lo →
    exec (.partFill map lo hi) s = .next { s with answer := .bytes [] } ∧
    exec (.partSens map lo hi) s = .next { s with answer := .rendering none [] }

/-- APPKEY.RECOVER (R209, R205): with blocks 0..3 present, byte `j` is the XOR of flash bytes 0x3002+j and 0x303A+j; else the
profile's key. The offsets are the primary profile's for every profile (log 16). -/
def Obligations.AppKeyIsRecoveredFromTheBootloader : Prop :=
  ∀ (map : BlockMap) (p : Profile) (s : State), BlockMap.wf map →
    (∀ b0 b1 b2 b3, lookupKey 0 map = some b0 → lookupKey 1 map = some b1 → lookupKey 2 map = some b2 →
      lookupKey 3 map = some b3 →
      ∃ key : Buffer, exec (.appkeyRecover map p) s = .next { s with answer := .bytes key } ∧ key.length = 56 ∧
        ∀ j, j < 56 → key[j]? = some ((b0 ++ b1 ++ b2 ++ b3).getD (0x3002 + j) 0 ^^^ (b0 ++ b1 ++ b2 ++ b3).getD (0x303A + j) 0)) ∧
    ((∃ i, i < 4 ∧ lookupKey i map = none) →
      exec (.appkeyRecover map p) s = .next { s with answer := .bytes p.appKey })

/-- PART.APPDEC (R208): `dec = XORK key, raw`, key index 0 at the first byte; an empty key is refused. -/
def Obligations.AppdecIsXorkOverTheRawImage : Prop :=
  ∀ (raw key : Buffer) (s : State),
    (key ≠ [] → ∃ dec : Buffer, exec (.partAppdec raw key) s = .next { s with answer := .bytes dec } ∧
      exec (.xork key raw) s = .next { s with answer := .bytes dec } ∧
      exec (.partAppdec dec key) s = .next { s with answer := .bytes raw }) ∧
    (key = [] → exec (.partAppdec raw key) s = .refused .emptyKey)

/-! ## The composites -/

/-- ENCODE's checks in the order of R229 (R184): the profile in the registry, the alignment of the address, the block range.
That they also decide an address above the 19 bits of R36, so that 0x80000 with an empty buffer passes them, is the model's
choice (log 31). -/
def Obligations.EncodeChecksInOrder : Prop :=
  ∀ (p : Profile) (a : Nat) (b : Buffer) (m : Texts) (s : State),
    (p ∉ s.profiles → exec (.encodeImage p a b m) s = .next { s with answer := .raised (.unsupportedDevice p) }) ∧
    (p ∈ s.profiles → a % 0x1000 ≠ 0 →
      exec (.encodeImage p a b m) s = .next { s with answer := .raised (.badAddress a none) }) ∧
    (p ∈ s.profiles → a % 0x1000 = 0 → p.appKey ≠ [] → 0x80 < a / 0x1000 + (b.length + 4095) / 4096 →
      exec (.encodeImage p a b m) s = .next { s with
        answer := .raised (.badAddress a (some ((b.length + 4095) / 4096))) }) ∧
    (p ∈ s.profiles → p.appKey ≠ [] → exec (.encodeImage p 0x80000 [] []) s = .next { s with answer := .bytes [] })

/-- ENCODE's stream (R186, R188), for a flash address within the 19 bits of R36: "events are emitted in block-major,
sub-block-minor order, with any display message for an ordinal emitted immediately before the firmware event of that ordinal",
the bytes of the buffer padded with 0xFF after the application XOR and enciphered with their block. "The stream holds `16·n + m`
events of 304 bytes each, `m` being the number of keys of `M` in `0..16·n`"; ENV.SCAN of it gives exactly these events. A text
above 256 bytes at such a key raises `ShortBlock` and returns no stream. -/
def Obligations.EncodeEmitsSixteenEventsABlock : Prop :=
  ∀ (p : Profile) (a : Nat) (b : Buffer) (m : Texts) (s : State) (n : Nat),
    p ∈ s.profiles → a < 0x80000 → a % 0x1000 = 0 → p.midiKey ≠ [] → p.appKey ≠ [] → n = (b.length + 4095) / 4096 →
    a / 0x1000 + n ≤ 0x80 → Texts.wf m →
    ((∀ x ∈ m, x.1 ≤ 16 * n → x.2.length ≤ 256) →
      ∃ (stream : Buffer) (evs : List Event), evs = streamEvents p a (flashImage p a b) m n ∧
        exec (.encodeImage p a b m) s = .next { s with answer := .bytes stream } ∧
        stream = evs.flatMap Event.bytes ∧ (∀ e ∈ evs, e.bytes.length = 304) ∧
        evs.length = 16 * n + (m.filter fun x => decide (x.1 ≤ 16 * n)).length ∧ stream.length = 304 * evs.length ∧
        exec (.envScan stream) s = .next { s with st := .searching, acc := [], skiplog := [], answer := .events evs }) ∧
    ((∃ x ∈ m, x.1 ≤ 16 * n ∧ 256 < x.2.length) →
      ∃ len, 256 < len ∧ exec (.encodeImage p a b m) s = .next { s with answer := .raised (.shortBlock len) })

/-- DECODE (R83, R174): a buffer the detector rejects is refused; otherwise DECODE is ENV.SCAN, ASM.RESET, ASM.ACCEPT of every
event, ASM.GETBLOCKS, and answers their bundle; a fault of an event ends it "with that fault, no bundle"; a SysEx buffer with
no 0x34 event gives the empty bundle. That DECODE leaves the machine's own registers as the expansion leaves them is the
model's reading (log 29). -/
def Obligations.DecodeIsItsExpansion : Prop :=
  ∀ (buf : Buffer) (s : State), (encode (.decodeStream buf)).bytes = [0x40] ∧
    (exec (.envDetect buf) s = .next { s with answer := .verdict false } → exec (.decodeStream buf) s = .refused .notSysex) ∧
    (exec (.envDetect buf) s = .next { s with answer := .verdict true } →
      ∀ (u : State) (evs : List Event), exec (.envScan buf) s = .next u → u.answer = .events evs →
        (∀ (t : State) (as : List Answer),
          execAll (Instr.asmReset :: evs.map Instr.asmAccept ++ [Instr.asmGetblocks]) u = some (t, as) →
          ∃ map, t.answer = .blocks map ∧ exec (.decodeStream buf) s = .next { t with
            format := .sysex, answer := .bundle ⟨t.prof, map, .sysex, t.msgs, t.seenModel⟩ }) ∧
        (∀ (before : List Event) (ev : Event) (after : List Event) (t t' : State) (as : List Answer) (r : Raised),
          evs = before ++ ev :: after →
          execAll (Instr.asmReset :: before.map Instr.asmAccept) u = some (t, as) → t.asmStatus = .ok →
          exec (.asmAccept ev) t = .next t' → t'.answer = .raised r →
          exec (.decodeStream buf) s = .next t' ∧ t'.asmStatus = .faulted r.kind) ∧
        ((∀ e ∈ evs, e.command ≠ 0x34) → ∃ t, exec (.decodeStream buf) s = .next t ∧
          t.answer = .bundle ⟨none, [], .sysex, [], none⟩))

/-- The round trip of R175, for a profile that stands first in the registry and a cleartext of at least one byte: DECODE of the
ENCODE of `B` at `A` has exactly the `⌈|B|/4096⌉` blocks from `A/4096` on, with the bytes of `B`, under the application XOR when
`A` is the start of the application region, and the 0xFF padding of the last block (R186). -/
def Obligations.EncodeThenDecodeGivesTheImageBack : Prop :=
  ∀ (s : State) (p : Profile) (rest : List Profile) (a n : Nat) (b : Buffer),
    s.profiles = p :: rest → p.wellFormed = true → a % 4096 = 0 → 0 < b.length → n = (b.length + 4095) / 4096 →
    a / 4096 + n ≤ 0x80 →
    ∃ (stream : Buffer) (t : State) (bundle : Bundle),
      exec (.encodeImage p a b []) s = .next { s with answer := .bytes stream } ∧
      exec (.decodeStream stream) s = .next t ∧ t.answer = .bundle bundle ∧ t.asmStatus = .ok ∧
      bundle.profile = some p ∧ bundle.messages = [] ∧ bundle.model = some p.modelId ∧
      bundle.blocks.length = n ∧
      ∀ i, lookupKey i bundle.blocks =
        if a / 4096 ≤ i ∧ i < a / 4096 + n
        then some ((((if a = p.appStart then xorFrom p.appKey 0 b else b) ++ rep 0xFF (4096 * n - b.length)).drop
          (4096 * (i - a / 4096))).take 4096)
        else none

/-- Display-message transparency (R175), with any number of blocks, the last one padded or not: messages queued at ordinals
0..16·n, in rising order, each of at most 256 bytes and without a zero byte, come back under the same ordinals, and the block
map is the one without messages. -/
def Obligations.DisplayMessagesAreTransparent : Prop :=
  ∀ (s : State) (p : Profile) (rest : List Profile) (a n : Nat) (b : Buffer) (m : Texts),
    s.profiles = p :: rest → p.wellFormed = true → a % 4096 = 0 → 0 < b.length → n = (b.length + 4095) / 4096 →
    a / 4096 + n ≤ 0x80 → m.Pairwise (fun x y => x.1 < y.1) →
    (∀ x ∈ m, x.1 ≤ 16 * n ∧ x.2.length ≤ 256 ∧ (0 : Byte) ∉ x.2) →
    ∃ (plain stream : Buffer) (t t' : State) (bundle bundle' : Bundle),
      exec (.encodeImage p a b []) s = .next { s with answer := .bytes plain } ∧
      exec (.encodeImage p a b m) s = .next { s with answer := .bytes stream } ∧
      exec (.decodeStream plain) s = .next t ∧ t.answer = .bundle bundle ∧
      exec (.decodeStream stream) s = .next t' ∧ t'.answer = .bundle bundle' ∧
      bundle'.messages = m ∧ bundle'.blocks = bundle.blocks ∧ bundle'.profile = bundle.profile
end

