-- ==== Sys2Proof/Laws/State.lean ====
section
/-! SUPPORT. One lemma per field per named update of the state, each true by rfl, so that no proof unfolds a record update. -/

namespace Sys2Proof.Machine

@[simp] theorem answered_st (s : State) (a : Answer) : (s.answered a).st = s.st := rfl
@[simp] theorem answered_acc (s : State) (a : Answer) : (s.answered a).acc = s.acc := rfl
@[simp] theorem answered_skiplog (s : State) (a : Answer) : (s.answered a).skiplog = s.skiplog := rfl
@[simp] theorem answered_store (s : State) (a : Answer) : (s.answered a).store = s.store := rfl
@[simp] theorem answered_prof (s : State) (a : Answer) : (s.answered a).prof = s.prof := rfl
@[simp] theorem answered_ord (s : State) (a : Answer) : (s.answered a).ord = s.ord := rfl
@[simp] theorem answered_msgs (s : State) (a : Answer) : (s.answered a).msgs = s.msgs := rfl
@[simp] theorem answered_seenModel (s : State) (a : Answer) : (s.answered a).seenModel = s.seenModel := rfl
@[simp] theorem answered_format (s : State) (a : Answer) : (s.answered a).format = s.format := rfl
@[simp] theorem answered_asmStatus (s : State) (a : Answer) : (s.answered a).asmStatus = s.asmStatus := rfl
@[simp] theorem answered_profiles (s : State) (a : Answer) : (s.answered a).profiles = s.profiles := rfl
@[simp] theorem answered_pending (s : State) (a : Answer) : (s.answered a).pending = s.pending := rfl
@[simp] theorem answered_answer (s : State) (a : Answer) : (s.answered a).answer = a := rfl

@[simp] theorem skipped_st (s : State) (k : Skip) : (s.skipped k).st = s.st := rfl
@[simp] theorem skipped_acc (s : State) (k : Skip) : (s.skipped k).acc = s.acc := rfl
@[simp] theorem skipped_skiplog (s : State) (k : Skip) : (s.skipped k).skiplog = s.skiplog ++ [k] := rfl
@[simp] theorem skipped_store (s : State) (k : Skip) : (s.skipped k).store = s.store := rfl
@[simp] theorem skipped_prof (s : State) (k : Skip) : (s.skipped k).prof = s.prof := rfl
@[simp] theorem skipped_ord (s : State) (k : Skip) : (s.skipped k).ord = s.ord := rfl
@[simp] theorem skipped_msgs (s : State) (k : Skip) : (s.skipped k).msgs = s.msgs := rfl
@[simp] theorem skipped_seenModel (s : State) (k : Skip) : (s.skipped k).seenModel = s.seenModel := rfl
@[simp] theorem skipped_format (s : State) (k : Skip) : (s.skipped k).format = s.format := rfl
@[simp] theorem skipped_asmStatus (s : State) (k : Skip) : (s.skipped k).asmStatus = s.asmStatus := rfl
@[simp] theorem skipped_profiles (s : State) (k : Skip) : (s.skipped k).profiles = s.profiles := rfl
@[simp] theorem skipped_pending (s : State) (k : Skip) : (s.skipped k).pending = s.pending := rfl
@[simp] theorem skipped_answer (s : State) (k : Skip) : (s.skipped k).answer = s.answer := rfl

@[simp] theorem takeFault_st (inPass : Bool) (r : Raised) (s : State) : (takeFault inPass r s).st = s.st := rfl
@[simp] theorem takeFault_acc (inPass : Bool) (r : Raised) (s : State) : (takeFault inPass r s).acc = s.acc := rfl
@[simp] theorem takeFault_skiplog (inPass : Bool) (r : Raised) (s : State) : (takeFault inPass r s).skiplog = s.skiplog := rfl
@[simp] theorem takeFault_store (inPass : Bool) (r : Raised) (s : State) : (takeFault inPass r s).store = s.store := rfl
@[simp] theorem takeFault_prof (inPass : Bool) (r : Raised) (s : State) : (takeFault inPass r s).prof = s.prof := rfl
@[simp] theorem takeFault_ord (inPass : Bool) (r : Raised) (s : State) : (takeFault inPass r s).ord = s.ord := rfl
@[simp] theorem takeFault_msgs (inPass : Bool) (r : Raised) (s : State) : (takeFault inPass r s).msgs = s.msgs := rfl
@[simp] theorem takeFault_seenModel (inPass : Bool) (r : Raised) (s : State) : (takeFault inPass r s).seenModel = s.seenModel := rfl
@[simp] theorem takeFault_format (inPass : Bool) (r : Raised) (s : State) : (takeFault inPass r s).format = s.format := rfl
@[simp] theorem takeFault_asmStatus (inPass : Bool) (r : Raised) (s : State) : (takeFault inPass r s).asmStatus = if inPass then .faulted r.kind else s.asmStatus := rfl
@[simp] theorem takeFault_profiles (inPass : Bool) (r : Raised) (s : State) : (takeFault inPass r s).profiles = s.profiles := rfl
@[simp] theorem takeFault_pending (inPass : Bool) (r : Raised) (s : State) : (takeFault inPass r s).pending = s.pending := rfl
@[simp] theorem takeFault_answer (inPass : Bool) (r : Raised) (s : State) : (takeFault inPass r s).answer = .raised r := rfl

@[simp] theorem resetAssembler_st (s : State) : (resetAssembler s).st = s.st := rfl
@[simp] theorem resetAssembler_acc (s : State) : (resetAssembler s).acc = s.acc := rfl
@[simp] theorem resetAssembler_skiplog (s : State) : (resetAssembler s).skiplog = s.skiplog := rfl
@[simp] theorem resetAssembler_store (s : State) : (resetAssembler s).store = [] := rfl
@[simp] theorem resetAssembler_prof (s : State) : (resetAssembler s).prof = none := rfl
@[simp] theorem resetAssembler_ord (s : State) : (resetAssembler s).ord = 0 := rfl
@[simp] theorem resetAssembler_msgs (s : State) : (resetAssembler s).msgs = [] := rfl
@[simp] theorem resetAssembler_seenModel (s : State) : (resetAssembler s).seenModel = none := rfl
@[simp] theorem resetAssembler_format (s : State) : (resetAssembler s).format = s.format := rfl
@[simp] theorem resetAssembler_asmStatus (s : State) : (resetAssembler s).asmStatus = .ok := rfl
@[simp] theorem resetAssembler_profiles (s : State) : (resetAssembler s).profiles = s.profiles := rfl
@[simp] theorem resetAssembler_pending (s : State) : (resetAssembler s).pending = s.pending := rfl
@[simp] theorem resetAssembler_answer (s : State) : (resetAssembler s).answer = s.answer := rfl

@[simp] theorem resetParser_st (s : State) : (resetParser s).st = .searching := rfl
@[simp] theorem resetParser_acc (s : State) : (resetParser s).acc = [] := rfl
@[simp] theorem resetParser_skiplog (s : State) : (resetParser s).skiplog = [] := rfl
@[simp] theorem resetParser_store (s : State) : (resetParser s).store = s.store := rfl
@[simp] theorem resetParser_prof (s : State) : (resetParser s).prof = s.prof := rfl
@[simp] theorem resetParser_ord (s : State) : (resetParser s).ord = s.ord := rfl
@[simp] theorem resetParser_msgs (s : State) : (resetParser s).msgs = s.msgs := rfl
@[simp] theorem resetParser_seenModel (s : State) : (resetParser s).seenModel = s.seenModel := rfl
@[simp] theorem resetParser_format (s : State) : (resetParser s).format = s.format := rfl
@[simp] theorem resetParser_asmStatus (s : State) : (resetParser s).asmStatus = s.asmStatus := rfl
@[simp] theorem resetParser_profiles (s : State) : (resetParser s).profiles = s.profiles := rfl
@[simp] theorem resetParser_pending (s : State) : (resetParser s).pending = s.pending := rfl
@[simp] theorem resetParser_answer (s : State) : (resetParser s).answer = s.answer := rfl

@[simp] theorem noteModel_st (m : Seven) (s : State) : (noteModel m s).st = s.st := rfl
@[simp] theorem noteModel_acc (m : Seven) (s : State) : (noteModel m s).acc = s.acc := rfl
@[simp] theorem noteModel_skiplog (m : Seven) (s : State) : (noteModel m s).skiplog = s.skiplog := rfl
@[simp] theorem noteModel_store (m : Seven) (s : State) : (noteModel m s).store = s.store := rfl
@[simp] theorem noteModel_prof (m : Seven) (s : State) : (noteModel m s).prof = s.prof := rfl
@[simp] theorem noteModel_ord (m : Seven) (s : State) : (noteModel m s).ord = s.ord := rfl
@[simp] theorem noteModel_msgs (m : Seven) (s : State) : (noteModel m s).msgs = s.msgs := rfl
@[simp] theorem noteModel_seenModel (m : Seven) (s : State) :
    (noteModel m s).seenModel = match s.seenModel with | none => some m | some m' => some m' := rfl
@[simp] theorem noteModel_format (m : Seven) (s : State) : (noteModel m s).format = s.format := rfl
@[simp] theorem noteModel_asmStatus (m : Seven) (s : State) : (noteModel m s).asmStatus = s.asmStatus := rfl
@[simp] theorem noteModel_profiles (m : Seven) (s : State) : (noteModel m s).profiles = s.profiles := rfl
@[simp] theorem noteModel_pending (m : Seven) (s : State) : (noteModel m s).pending = s.pending := rfl
@[simp] theorem noteModel_answer (m : Seven) (s : State) : (noteModel m s).answer = s.answer := rfl

@[simp] theorem present_st (t : Transaction) (s : State) : (present t s).st = s.st := rfl
@[simp] theorem present_acc (t : Transaction) (s : State) : (present t s).acc = s.acc := rfl
@[simp] theorem present_skiplog (t : Transaction) (s : State) : (present t s).skiplog = s.skiplog := rfl
@[simp] theorem present_store (t : Transaction) (s : State) : (present t s).store = s.store := rfl
@[simp] theorem present_prof (t : Transaction) (s : State) : (present t s).prof = s.prof := rfl
@[simp] theorem present_ord (t : Transaction) (s : State) : (present t s).ord = s.ord := rfl
@[simp] theorem present_msgs (t : Transaction) (s : State) : (present t s).msgs = s.msgs := rfl
@[simp] theorem present_seenModel (t : Transaction) (s : State) : (present t s).seenModel = s.seenModel := rfl
@[simp] theorem present_format (t : Transaction) (s : State) : (present t s).format = s.format := rfl
@[simp] theorem present_asmStatus (t : Transaction) (s : State) : (present t s).asmStatus = s.asmStatus := rfl
@[simp] theorem present_profiles (t : Transaction) (s : State) : (present t s).profiles = s.profiles := rfl
@[simp] theorem present_pending (t : Transaction) (s : State) : (present t s).pending = t :: s.pending := rfl
@[simp] theorem present_answer (t : Transaction) (s : State) : (present t s).answer = s.answer := rfl

end Sys2Proof.Machine
end

