-- ==== Sys2Proof/Laws/Ops.lean ====
section
/-! SUPPORT. What each shared operation of Machine/Ops.lean can do, said once; the laws of the store. -/

namespace Sys2Proof.Machine

/-! ## Computations -/

@[simp] theorem Calc.andThen_value {α β : Type} (a : α) (f : α → Calc β) : (Calc.value a).andThen f = f a := rfl
@[simp] theorem Calc.andThen_raise {α β : Type} (r : Raised) (f : α → Calc β) : (Calc.raise r).andThen f = .raise r := rfl
@[simp] theorem Calc.andThen_refuse {α β : Type} (r : Refusal) (f : α → Calc β) : (Calc.refuse r).andThen f = .refuse r := rfl

/-- A composed computation has a value only if both parts have one. -/
theorem Calc.andThen_eq_value {α β : Type} {c : Calc α} {f : α → Calc β} {b : β} :
    c.andThen f = .value b ↔ ∃ a, c = .value a ∧ f a = .value b := by
  cases c <;> simp [Calc.andThen]

@[simp] theorem gather_nil {α : Type} (f : α → Calc Buffer) : gather f [] = .value [] := rfl

theorem gather_cons {α : Type} (f : α → Calc Buffer) (a : α) (as : List α) :
    gather f (a :: as) = (f a).andThen fun b => (gather f as).andThen fun bs => .value (b ++ bs) := rfl

/-- If every item emits its bytes, the whole emits their concatenation. -/
theorem gather_value {α : Type} {f : α → Calc Buffer} {g : α → Buffer} {as : List α} (h : ∀ a ∈ as, f a = .value (g a)) :
    gather f as = .value (as.flatMap g) := by
  induction as with
  | nil => rfl
  | cons a as ih =>
    rw [gather_cons, h a (by simp), ih fun x hx => h x (by simp [hx])]
    rfl

/-- Everything the end of a stateless operation can be. -/
theorem deliver_next {α : Type} {c : Calc α} {wrap : α → Answer} {s t : State} (h : deliver c wrap s = .next t) :
    (∃ a, c = .value a ∧ t = s.answered (wrap a)) ∨ ∃ r, c = .raise r ∧ t = takeFault false r s := by
  cases c with
  | value a => exact .inl ⟨a, rfl, by simpa [deliver] using h.symm⟩
  | raise r => exact .inr ⟨r, rfl, by simpa [deliver] using h.symm⟩
  | refuse r => simp [deliver] at h

@[simp] theorem deliver_value {α : Type} (a : α) (wrap : α → Answer) (s : State) :
    deliver (.value a) wrap s = .next (s.answered (wrap a)) := rfl
@[simp] theorem deliver_raise {α : Type} (r : Raised) (wrap : α → Answer) (s : State) :
    deliver (.raise r) wrap s = .next (takeFault false r s) := rfl
@[simp] theorem deliver_refuse {α : Type} (r : Refusal) (wrap : α → Answer) (s : State) :
    deliver (.refuse r) wrap s = .refused r := rfl

/-- An operation guarded by the status runs only while it is OK. -/
theorem whileOk_next {s t : State} {f : Outcome} (h : whileOk s f = .next t) : s.asmStatus = .ok ∧ f = .next t := by
  unfold whileOk at h
  split at h
  · exact ⟨‹_›, h⟩
  · cases h

theorem whileOk_of_ok {s : State} {f : Outcome} (h : s.asmStatus = .ok) : whileOk s f = f := by simp [whileOk, h]

theorem whileOk_of_faulted {s : State} {f : Outcome} {k : Kind} (h : s.asmStatus = .faulted k) :
    whileOk s f = .refused .passFaulted := by simp [whileOk, h]

/-! ## The store -/

@[simp] theorem lookupKey_nil (k : Nat) : lookupKey k [] = none := rfl

@[simp] theorem lookupKey_cons (k a : Nat) (v : Buffer) (m : List (Nat × Buffer)) :
    lookupKey k ((a, v) :: m) = if a = k then some v else lookupKey k m := rfl

/-- A key that is found is listed. -/
theorem mem_of_lookupKey {k : Nat} {v : Buffer} {m : List (Nat × Buffer)} (h : lookupKey k m = some v) : (k, v) ∈ m := by
  induction m with
  | nil => simp at h
  | cons c m ih =>
    obtain ⟨a, w⟩ := c
    rw [lookupKey_cons] at h
    split at h
    · simp_all
    · exact List.mem_cons_of_mem _ (ih h)

/-- Every entry of a written store is the written one or an entry from before. -/
theorem Memory.mem_write {m : Memory} {sub : Nat} {data : Buffer} {c : Nat × Buffer} (h : c ∈ m.write sub data) :
    c = (sub, data) ∨ c ∈ m := by
  induction m with
  | nil => simpa [Memory.write] using h
  | cons x m ih =>
    obtain ⟨a, v⟩ := x
    simp only [Memory.write] at h
    split at h
    · simpa using h
    · split at h
      · rcases List.mem_cons.1 h with h | h
        · exact .inl h
        · exact .inr (List.mem_cons_of_mem _ h)
      · rcases List.mem_cons.1 h with h | h
        · exact .inr (h ▸ List.mem_cons_self)
        · exact (ih h).imp id (List.mem_cons_of_mem _)

/-- `MemWrite` keeps the canonical form. -/
theorem Memory.write_wf {m : Memory} {sub : Nat} {data : Buffer} (hm : m.wf) (hs : sub < 0x10000)
    (hd : data.length = 256) : (m.write sub data).wf := by
  refine ⟨?_, fun c hc => ?_⟩
  · obtain ⟨hp, -⟩ := hm
    induction m with
    | nil => simp [Memory.write]
    | cons x m ih =>
      obtain ⟨a, v⟩ := x
      rw [List.pairwise_cons] at hp
      simp only [Memory.write]
      split
      · refine List.pairwise_cons.2 ⟨fun y hy => ?_, List.pairwise_cons.2 hp⟩
        rcases List.mem_cons.1 hy with rfl | hy
        · assumption
        · have := hp.1 y hy
          simp only at this ⊢
          omega
      · split
        · subst_vars
          exact List.pairwise_cons.2 hp
        · refine List.pairwise_cons.2 ⟨fun y hy => ?_, ih hp.2⟩
          rcases Memory.mem_write hy with rfl | hy
          · simp only
            omega
          · exact hp.1 y hy
  · rcases Memory.mem_write hc with rfl | h
    · exact ⟨hs, hd⟩
    · exact hm.2 c h

/-- The store at reset has the canonical form. -/
theorem Memory.reset_wf : Memory.wf State.reset.store := by simp [State.reset, Memory.wf]

/-- A read after a write of the same key gives the value written. -/
theorem Memory.read_write_same (m : Memory) (sub : Nat) (data : Buffer) : (m.write sub data).read sub = some data := by
  induction m with
  | nil => simp [Memory.write, Memory.read]
  | cons x m ih =>
    obtain ⟨a, v⟩ := x
    simp only [Memory.write]
    split
    · simp [Memory.read]
    · split
      · simp [Memory.read]
      · rename_i h1 h2
        simp only [Memory.read, lookupKey_cons, if_neg (Ne.symm h2)]
        exact ih

/-- A write leaves every other key alone. -/
theorem Memory.read_write_other (m : Memory) {sub k : Nat} (data : Buffer) (h : k ≠ sub) :
    (m.write sub data).read k = m.read k := by
  induction m with
  | nil => simp [Memory.write, Memory.read, h.symm]
  | cons x m ih =>
    obtain ⟨a, v⟩ := x
    simp only [Memory.write]
    split
    · simp [Memory.read, h.symm]
    · split
      · subst_vars
        simp [Memory.read, h.symm]
      · simp only [Memory.read, lookupKey_cons]
        split
        · rfl
        · exact ih

/-- A write adds at most one entry. -/
theorem Memory.length_write (m : Memory) (sub : Nat) (data : Buffer) : (m.write sub data).length ≤ m.length + 1 := by
  induction m with
  | nil => simp [Memory.write]
  | cons x m ih =>
    obtain ⟨a, v⟩ := x
    simp only [Memory.write]
    split
    · simp
    · split
      · simp
      · simpa using ih

/-! ## Fetching -/

@[simp] theorem fetch_present (t : Transaction) (s : State) : fetch (present t s) = some (t, s) := rfl

/-- Everything a fetch can be. -/
theorem fetch_some {s s' : State} {t : Transaction} (h : fetch s = some (t, s')) :
    ∃ rest, s.pending = t :: rest ∧ s' = { s with pending := rest } := by
  unfold fetch at h
  split at h
  · cases h
  · cases h
    exact ⟨_, ‹_›, rfl⟩

end Sys2Proof.Machine
end

