-- ==== Sys2Proof/Laws/Units.lean ====
section
/-! SUPPORT. Lengths and equations of the stateless units U1 to U4 and of the record fields. -/

namespace Sys2Proof.Machine

@[simp] theorem packGroup_length (c : Buffer) : (packGroup c).length = 8 := rfl
@[simp] theorem unpackGroup_length (c : Buffer) : (unpackGroup c).length = 7 := rfl

@[simp] theorem packGroups_length (n : Nat) (x : Buffer) : (packGroups n x).length = 8 * n := by
  induction n generalizing x with
  | zero => rfl
  | succ n ih => simp [packGroups, ih]; omega

@[simp] theorem unpackGroups_length (n : Nat) (y : Buffer) : (unpackGroups n y).length = 7 * n := by
  induction n generalizing y with
  | zero => rfl
  | succ n ih => simp [unpackGroups, ih]; omega

/-- `|PACK(x)| = 8·⌈|x|/7⌉` (R79). -/
theorem pack_length (x : Buffer) : (pack x).length = 8 * ((x.length + 6) / 7) := packGroups_length _ _

/-- UNPACK's value on a whole number of groups. -/
theorem unpack_of_dvd {y : Buffer} (h : y.length % 8 = 0) : unpack y = .value (unpackGroups (y.length / 8) y) := by
  simp [unpack, h]

/-- UNPACK never refuses. -/
theorem unpack_ne_refuse (y : Buffer) (r : Refusal) : unpack y ≠ .refuse r := by
  unfold unpack; split <;> simp

/-- Everything UNPACK can raise. -/
theorem unpack_raise {y : Buffer} {r : Raised} (h : unpack y = .raise r) : y.length % 8 ≠ 0 ∧ r = .badLength y.length := by
  unfold unpack at h
  split at h
  · cases h
  · cases h; exact ⟨‹_›, rfl⟩

@[simp] theorem xorFrom_length (k : Buffer) (i : Nat) (d : Buffer) : (xorFrom k i d).length = d.length := by
  induction d generalizing i with
  | nil => rfl
  | cons d ds ih => simp [xorFrom, ih]

/-- XORK with a key. -/
theorem xork_of_ne {k : Buffer} (h : k ≠ []) (d : Buffer) : xork k d = .value (xorFrom k 0 d) := by simp [xork, h]

@[simp] theorem xork_nil (d : Buffer) : xork [] d = .refuse .emptyKey := rfl

/-- XORK never raises. -/
theorem xork_ne_raise (k d : Buffer) (r : Raised) : xork k d ≠ .raise r := by
  unfold xork; split <;> simp

theorem cipherWords_length (k : Half) (x : Buffer) : (cipherWords k x).length = x.length := by
  induction k, x using cipherWords.induct with
  | case1 k lo hi rest ih => simp [cipherWords, ih]
  | case2 k short h => rw [cipherWords]; exact h

/-- The cipher keeps the length of a block. -/
@[simp] theorem cipher_length (base : Half) (blk : Buffer) : (cipher base blk).length = blk.length := cipherWords_length _ _

@[simp] theorem recordBytesOf_length (sub : Half) (k : Byte) (data : Buffer) :
    (recordBytesOf sub k data).length = data.length + 3 := by simp [recordBytesOf]

/-- The fields of a record are the ones it was built from (R72, R76). -/
theorem recNumber_recordBytesOf (sub : Half) (k : Byte) (data : Buffer) : recNumber (recordBytesOf sub k data) = sub := by
  simp only [recNumber, recordBytesOf, List.cons_append, List.getD_cons_zero, List.getD_cons_succ]
  ext i hi
  simp only [BitVec.getElem_append, BitVec.getElem_extractLsb']
  split
  · simp
    rw [BitVec.getLsbD_eq_getElem]
  · rw [← BitVec.getLsbD_eq_getElem]
    congr 1
    omega

@[simp] theorem recChecksum_recordBytesOf (sub : Half) (k : Byte) (data : Buffer) :
    recChecksum (recordBytesOf sub k data) = k := rfl

theorem recData_recordBytesOf {sub : Half} {k : Byte} {data : Buffer} (h : data.length = 256) :
    recData (recordBytesOf sub k data) = data := by
  simp [recData, slice, recordBytesOf, ← h]

/-- The data of a long enough record is 256 bytes. -/
theorem recData_length {r : Buffer} (h : 259 ≤ r.length) : (recData r).length = 256 := by
  simp [recData, slice]; omega

/-- A text has no zero byte and is no longer than its data (R165). -/
theorem textOf_spec (data : Buffer) : (textOf data).length ≤ data.length ∧ (0 : Byte) ∉ textOf data := by
  refine ⟨(List.takeWhile_sublist _).length_le, fun h => ?_⟩
  have := List.mem_takeWhile_imp h
  simp at this

/-- The checksum's state is the fold of its byte step (R121). -/
theorem ckBytes_eq_foldl (data : Buffer) (c : Byte) : ckBytes data c = data.foldl ckByte c := by
  induction data generalizing c with
  | nil => rfl
  | cons b bs ih =>
    unfold ckBytes
    split <;> rename_i h <;> rw [ih, List.foldl_cons] <;> congr 1 <;> apply BitVec.eq_of_toNat_eq
    · simpa using h.symm
    · simp [← Nat.succ_eq_add_one, ← h]

theorem ck_eq_foldl (data : Buffer) : ck data = data.foldl ckByte 0 ^^^ ckFinal := by
  rw [ck, ckBytes_eq_foldl]

end Sys2Proof.Machine
end

