-- ==== Sys2Proof/Laws/Envelope.lean ====
section
/-! SUPPORT. What one byte, the end of the input and a whole scan can do to the parser, said once (R147). -/

namespace Sys2Proof.Machine

/-- The header test changes nothing but the skip log. -/
theorem header_cases (body : Buffer) (s : State) :
    (∃ d m c p, body = Config.vendor ++ d :: m :: c :: p ∧
        header body s = (s, some ⟨d.setWidth 7, m.setWidth 7, c.setWidth 7, p⟩)) ∨
      ∃ flaw, header body s = (s.skipped (.malformedEnvelope flaw body), none) := by
  unfold header
  split
  · rename_i h
    split
    · rename_i d m c p h'
      exact .inl ⟨d, m, c, p, by rw [← h, ← h', List.take_append_drop], rfl⟩
    · exact .inr ⟨_, rfl⟩
  · exact .inr ⟨_, rfl⟩

/-- Everything the work on a terminator can do (R143, R144). -/
theorem finalize_cases (t : Byte) (s : State) :
    (∃ d m c p, t = 0xF7 ∧ s.acc = Config.vendor ++ d :: m :: c :: p ∧
        finalize t s = ({ s with st := .searching, acc := [] }, some ⟨d.setWidth 7, m.setWidth 7, c.setWidth 7, p⟩)) ∨
      ∃ flaw st', (st' = .searching ∨ st' = .inEvent) ∧
        finalize t s = ({ s with st := st', acc := [] }.skipped (.malformedEnvelope flaw s.acc), none) := by
  unfold finalize
  split
  · rename_i h
    rcases header_cases s.acc { s with st := .searching, acc := [] } with ⟨d, m, c, p, hb, hh⟩ | ⟨flaw, hh⟩
    · exact .inl ⟨d, m, c, p, by simpa [terminatorOk] using h, hb, hh⟩
    · exact .inr ⟨flaw, .searching, .inl rfl, hh⟩
  · refine .inr ⟨_, _, ?_, rfl⟩
    split
    · exact .inr rfl
    · exact .inl rfl

/-- Everything one byte can do (R141). -/
theorem feedByte_cases (b : Byte) (s : State) :
    (s.st = .searching ∧ b = 0xF0 ∧ feedByte b s = ({ s with st := .inEvent, acc := [] }, none)) ∨
    (s.st = .searching ∧ b ≠ 0xF0 ∧ feedByte b s = (s.skipped (.trailingGarbage b), none)) ∨
    (s.st = .inEvent ∧ clean b = true ∧ feedByte b s = ({ s with acc := s.acc ++ [b] }, none)) ∨
    (s.st = .inEvent ∧ clean b = false ∧ feedByte b s = finalize b { s with st := .finalize }) ∨
    (s.st = .finalize ∧ feedByte b s = finalize b s) := by
  unfold feedByte
  cases h : s.st <;> simp only [reduceCtorEq, false_and, true_and, or_false, false_or]
  · by_cases hb : b = 0xF0
    · exact .inl ⟨hb, if_pos hb⟩
    · exact .inr ⟨hb, if_neg hb⟩
  · cases hc : clean b <;> simp

/-- `t` differs from `s` in the three registers of U5 at most, and the log only grew (R226). -/
def OnlyU5 (s t : State) : Prop :=
  t = { s with st := t.st, acc := t.acc, skiplog := t.skiplog } ∧ ∃ l, t.skiplog = s.skiplog ++ l

theorem OnlyU5.refl (s : State) : OnlyU5 s s := ⟨rfl, [], by simp⟩

theorem OnlyU5.trans {a b c : State} (h : OnlyU5 a b) (h' : OnlyU5 b c) : OnlyU5 a c := by
  obtain ⟨h1, l, h2⟩ := h
  obtain ⟨h1', l', h2'⟩ := h'
  refine ⟨?_, l ++ l', by rw [h2', h2, List.append_assoc]⟩
  cases a
  cases b
  cases c
  simp_all

/-- The work on a terminator changes U5 only. -/
theorem finalize_frame (t : Byte) (s : State) : OnlyU5 s (finalize t s).1 := by
  rcases finalize_cases t s with ⟨d, m, c, p, -, -, h⟩ | ⟨flaw, st', -, h⟩ <;> rw [h]
  · exact ⟨rfl, [], by simp⟩
  · exact ⟨rfl, _, rfl⟩

/-- One byte changes U5 only. -/
theorem feedByte_frame (b : Byte) (s : State) : OnlyU5 s (feedByte b s).1 := by
  rcases feedByte_cases b s with ⟨-, -, h⟩ | ⟨-, -, h⟩ | ⟨-, -, h⟩ | ⟨-, -, h⟩ | ⟨-, h⟩ <;> rw [h]
  · exact ⟨rfl, [], by simp⟩
  · exact ⟨rfl, _, rfl⟩
  · exact ⟨rfl, [], by simp⟩
  · exact OnlyU5.trans (b := { s with st := .finalize }) ⟨rfl, [], by simp⟩ (finalize_frame b _)
  · exact finalize_frame b s

/-- The end of the input changes U5 only. -/
theorem endInput_frame (s : State) : OnlyU5 s (endInput s) := by
  unfold endInput
  split
  · exact ⟨rfl, _, rfl⟩
  · exact OnlyU5.refl s

@[simp] theorem feedAll_nil (s : State) : feedAll [] s = (s, []) := rfl

theorem feedAll_cons (b : Byte) (bs : Buffer) (s : State) :
    feedAll (b :: bs) s = ((feedAll bs (feedByte b s).1).1, (feedByte b s).2.toList ++ (feedAll bs (feedByte b s).1).2) := rfl

/-- A buffer fed in two parts. -/
theorem feedAll_append (x y : Buffer) (s : State) :
    feedAll (x ++ y) s = ((feedAll y (feedAll x s).1).1, (feedAll x s).2 ++ (feedAll y (feedAll x s).1).2) := by
  induction x generalizing s with
  | nil => simp
  | cons b bs ih => simp [feedAll_cons, ih]

/-- A buffer changes U5 only. -/
theorem feedAll_frame (bs : Buffer) (s : State) : OnlyU5 s (feedAll bs s).1 := by
  induction bs generalizing s with
  | nil => exact OnlyU5.refl s
  | cons b bs ih => exact (feedByte_frame b s).trans (ih (feedByte b s).1)

/-- A scan changes U5 only, starting from its reset registers. -/
theorem scan_frame (buf : Buffer) (s : State) : OnlyU5 (resetParser s) (scan buf s).1 :=
  (feedAll_frame buf (resetParser s)).trans (endInput_frame _)

end Sys2Proof.Machine
end

