-- ==== Sys2Proof/Laws/Assembler.lean ====
section
/-! SUPPORT. Everything the acceptance of an event and of a record can do, said once (R163, R231). -/

namespace Sys2Proof.Machine

/-- The faults a decode pass records (R163). -/
def inPass (r : Raised) : Prop := r.kind = .badLength ∨ r.kind = .checksumMismatch ∨ r.kind = .ambiguousProfile

/-- `t` is `s` after one record: a fault with nothing filed, a message filed, or a sub-block stored. -/
def Filed (s t : State) : Prop :=
  (∃ r, inPass r ∧ t = takeFault true r s) ∨
  (∃ data, data.length ≤ 256 ∧ t = { s with msgs := s.msgs ++ [(s.ord, textOf data)] }.answered .done) ∨
  (∃ sub data, sub ≠ Config.msgSub ∧ data.length = 256 ∧
    t = { s with store := s.store.write sub.toNat data, ord := s.ord + 1 }.answered .done)

/-- Filing a flash sub-block (R163 step 5). -/
theorem fileFlash_next {sub : Half} {sent : Byte} {data : Buffer} {s t : State} (h : fileFlash sub sent data s = .next t)
    (hs : sub ≠ Config.msgSub) (hd : data.length = 256) : Filed s t := by
  cases h
  split
  · exact .inr (.inr ⟨sub, data, hs, hd, rfl⟩)
  · exact .inl ⟨_, .inr (.inl rfl), rfl⟩

/-- Filing a record always goes on, to one of the three outcomes. -/
theorem fileRecord_next (r : Buffer) (s : State) : ∃ t, fileRecord r s = .next t ∧ Filed s t := by
  unfold fileRecord sbParse
  by_cases hl : 259 ≤ r.length
  · have hd := recData_length hl
    simp only [hl, if_true]
    by_cases hm : recNumber r = Config.msgSub
    · simp only [hm, if_true]
      exact ⟨_, rfl, .inr (.inl ⟨recData r, by omega, rfl⟩)⟩
    · simp only [hm, if_false]
      exact ⟨_, rfl, fileFlash_next rfl hm hd⟩
  · simp only [hl, if_false]
    exact ⟨_, rfl, .inl ⟨_, .inl rfl, rfl⟩⟩

/-- A fault of identification is `AmbiguousProfile`, and a profile it answers stands in the registry (R166). -/
theorem identify_value {u : Buffer} {m : Seven} {ps : List Profile} {p : Profile} (h : identify u m ps = .value p) :
    p ∈ ps := by
  unfold identify at h
  obtain ⟨found, hf, hp⟩ := Calc.andThen_eq_value.1 h
  cases found with
  | some q =>
    have key : ∀ qs, firstMatch u qs = .value (some q) → q ∈ qs := by
      intro qs
      induction qs with
      | nil => intro hq; simp [firstMatch] at hq
      | cons a as ih =>
        intro hq
        obtain ⟨ok, -, ho⟩ := Calc.andThen_eq_value.1 hq
        cases ok
        · exact List.mem_cons_of_mem _ (ih (by simpa using ho))
        · simp only [if_true, Calc.value.injEq, Option.some.injEq] at ho
          simp [ho]
    simp only [Calc.value.injEq] at hp
    exact hp ▸ key ps hf
  | none =>
    simp only [fallback] at hp
    split at hp
    · rename_i q hq
      simp only [Calc.value.injEq] at hp
      have : q ∈ ps.filter fun p => p.modelId = m := by simp [hq]
      exact hp ▸ (List.mem_filter.1 this).1
    · cases hp

theorem identify_raise {u : Buffer} {m : Seven} {ps : List Profile} {r : Raised} (h : identify u m ps = .raise r) :
    ∃ n, r = .ambiguousProfile m n := by
  have key : ∀ qs, firstMatch u qs ≠ .raise r := by
    intro qs
    induction qs with
    | nil => simp [firstMatch]
    | cons a as ih =>
      intro hq
      unfold firstMatch trial xork at hq
      split at hq <;> simp only [Calc.andThen_refuse, Calc.andThen_value, reduceCtorEq] at hq
      generalize (if 259 ≤ u.length then _ else _ : Bool) = ok at hq
      cases ok
      · exact ih (by simpa using hq)
      · simp at hq
  unfold identify at h
  cases hf : firstMatch u ps with
  | value found =>
    rw [hf] at h
    cases found with
    | some p => cases h
    | none =>
      simp only [Calc.andThen_value, fallback] at h
      split at h
      · cases h
      · cases h; exact ⟨_, rfl⟩
  | raise r' =>
    rw [hf] at h
    cases h
    exact absurd hf (key ps)
  | refuse r' => rw [hf] at h; cases h

/-- Everything `ASM.ACCEPT` can do when it goes on (R163, R231): skip an unknown command; fault, with at most `seen_model`
recorded; or end as one record does on the state in which `seen_model` and the profile of the pass have been recorded. -/
theorem accept_next {ev : Event} {s t : State} (h : accept ev s = .next t) :
    s.asmStatus = .ok ∧
      (t = (s.skipped (.unknownCommand ev.command)).answered .done ∨
        ∃ sm, (sm = s.seenModel ∨ s.seenModel = none) ∧
          ((∃ r, inPass r ∧ t = takeFault true r { s with seenModel := sm }) ∨
            ∃ p, (s.prof = some p ∨ s.prof = none ∧ p ∈ s.profiles) ∧
              Filed { s with seenModel := sm, prof := some p } t)) := by
  obtain ⟨hok, h⟩ := whileOk_next h
  refine ⟨hok, ?_⟩
  split at h
  · unfold acceptFirmware at h
    split at h
    · rename_i r hr
      cases h
      obtain ⟨-, rfl⟩ := unpack_raise hr
      exact .inr ⟨s.seenModel, .inl rfl, .inl ⟨_, .inl rfl, rfl⟩⟩
    · cases h
    · split at h
      · cases h
        exact .inr ⟨s.seenModel, .inl rfl, .inl ⟨_, .inl rfl, rfl⟩⟩
      · have hsm : (noteModel ev.modelId s).seenModel = s.seenModel ∨ s.seenModel = none := by
          cases hs : s.seenModel <;> simp [hs]
        refine .inr ⟨(noteModel ev.modelId s).seenModel, hsm, ?_⟩
        unfold acceptUnpacked at h
        split at h
        · rename_i r hr
          cases h
          unfold passProfile at hr
          split at hr
          · cases hr
          · obtain ⟨n, rfl⟩ := identify_raise hr
            exact .inl ⟨_, .inr (.inr rfl), rfl⟩
        · cases h
        · rename_i p hp
          have hpr : s.prof = some p ∨ s.prof = none ∧ p ∈ s.profiles := by
            unfold passProfile at hp
            split at hp
            · rename_i q hq
              simp only [Calc.value.injEq] at hp
              exact .inl (hp ▸ hq)
            · exact .inr ⟨‹_›, identify_value hp⟩
          split at h
          · rename_i r hr
            obtain ⟨t', ht', hf⟩ := fileRecord_next r { noteModel ev.modelId s with prof := some p }
            rw [h] at ht'
            cases ht'
            exact .inr ⟨p, hpr, hf⟩
          · rename_i r hr
            exact absurd hr (xork_ne_raise _ _ _)
          · cases h
  · cases h
    exact .inl rfl

/-- Under a profile with a key, the record forms are the acceptance of the event that carries the record (R72, R80). -/
theorem acceptRecord_of_key {p : Profile} (hk : p.midiKey ≠ []) (r : Buffer) (s : State) :
    acceptRecord p r s = accept ⟨Config.broadcastId, p.modelId, Config.cmdWriteFlash, pack (xorFrom p.midiKey 0 r)⟩ s := by
  unfold acceptRecord carry xork
  simp only [hk, if_false, Calc.andThen_value]
  unfold accept whileOk
  cases s.asmStatus <;> rfl

/-- A record form that goes on is the acceptance of some event. -/
theorem acceptRecord_next {p : Profile} {r : Buffer} {s t : State} (h : acceptRecord p r s = .next t) :
    ∃ ev, accept ev s = .next t := by
  by_cases hk : p.midiKey = []
  · obtain ⟨-, h⟩ := whileOk_next h
    simp [carry, xork, hk] at h
  · exact ⟨_, acceptRecord_of_key hk r s ▸ h⟩

/-- The acceptance of several events is the acceptance of the first and then of the rest, while the status is OK. -/
theorem acceptAll_cons {ev : Event} {evs : List Event} {s : State} :
    acceptAll (ev :: evs) s = match accept ev s with
      | .next t => (match t.asmStatus with | .ok => acceptAll evs t | .faulted _ => .next t)
      | .fault f => .fault f
      | .refused r => .refused r := rfl

/-- What holds at the start of a pass and after every accepted event holds at its end. -/
theorem acceptAll_induct {P : State → Prop} (step : ∀ ev s t, P s → accept ev s = .next t → P t)
    {evs : List Event} {s t : State} (hs : P s) (h : acceptAll evs s = .next t) : P t := by
  induction evs generalizing s with
  | nil => cases h; exact hs
  | cons ev evs ih =>
    rw [acceptAll_cons] at h
    split at h
    · rename_i t' ht'
      have hP := step ev s t' hs ht'
      split at h
      · exact ih hP h
      · cases h; exact hP
    · cases h
    · cases h

/-- Everything DECODE can do when it goes on (R174): the detector accepted the buffer, and the answer is the bundle of the
finished pass or the fault that ended it. -/
theorem decodeBuffer_next {buf : Buffer} {s t : State} (h : decodeBuffer buf s = .next t) :
    detect buf = true ∧ ∃ u, acceptAll (scan buf s).2 (resetAssembler (scan buf s).1) = .next u ∧
      ((u.asmStatus = .ok ∧ t = { u with format := .sysex }.answered (.bundle (bundleOf u))) ∨
        ((∃ k, u.asmStatus = .faulted k) ∧ t = u)) := by
  unfold decodeBuffer at h
  split at h
  · rename_i hd
    refine ⟨hd, ?_⟩
    dsimp only at h
    split at h
    · rename_i u hu
      refine ⟨u, hu, ?_⟩
      unfold finishDecode at h
      split at h <;> cases h
      · exact .inl ⟨‹_›, rfl⟩
      · exact .inr ⟨⟨_, ‹_›⟩, rfl⟩
    · cases h
    · cases h
  · cases h

end Sys2Proof.Machine
end

