-- ==== Sys2Proof/Tests/Slice0.lean ====
section
/-! SUPPORT. The model's own tests: ill-formed terms that WellFormed refuses, words written out from 30_encoding.md, the
vectors of 95_test_vectors.md (each named in its docstring), and one witness for the hypotheses of every statement. -/

namespace Sys2Proof.Tests

-- One theorem after another: each kernel evaluation run beside the others would reserve the stack of a thread of its own.
set_option Elab.async false

open Sys2Proof.Machine

/-! ## Helpers -/

/-- Profile A with the test model ID of 95_test_vectors.md. -/
def pA : Profile := Config.profileA 0x12

/-- Profile B with the test assumptions of 95_test_vectors.md. -/
def pB : Profile := Config.profileB 0x12 4 0x5A 0x4000 [] [] Config.primaryOffsets

/-- After reset, with a registry. -/
def ready (ps : List Profile) : State := { State.reset with profiles := ps }

/-- After reset, with an event in progress. -/
def inEvent (acc : Buffer) : State := { State.reset with st := .inEvent, acc }

/-- A pass with profile A selected. -/
def inPassA : State := { ready [pA] with prof := some pA }

/-- A pass that met a bad checksum. -/
def faulted : State := { ready [pA] with asmStatus := .faulted .checksumMismatch }

/-- The state of an outcome, if it is a next state. -/
def nextOf : Outcome → Option State
  | .next t => some t
  | _ => none

/-- The answer of an outcome, if it is a next state. -/
def answerOf (o : Outcome) : Option Answer := (nextOf o).map State.answer

/-- The reason of a refusal. -/
def refusalOf : Outcome → Option Refusal
  | .refused r => some r
  | _ => none

/-- A FlashBlock map of the given indices, each block filled with its index. -/
def mapOf (is : List Nat) : BlockMap := is.map fun i => (i, rep (BitVec.ofNat 8 i) 4096)

/-- A map whose blocks stand for 4096 bytes by one: no rendering looks at the length of a present block. -/
def shortMap (is : List Nat) : BlockMap := is.map fun i => (i, [BitVec.ofNat 8 i])

/-- "UPDATING FIRMWARE" (V-C). -/
def updating : Buffer :=
  [0x55, 0x50, 0x44, 0x41, 0x54, 0x49, 0x4E, 0x47, 0x20, 0x46, 0x49, 0x52, 0x4D, 0x57, 0x41, 0x52, 0x45]

/-- The payload of event 0 of V-F1, bytes 7..302 of the event as printed there. -/
def payloadF1 : Buffer :=
  [0x54, 0x1A, 0x7F, 0x1F, 0x14, 0x1A, 0x08, 0x00, 0x6C, 0x37, 0x7C, 0x3A, 0x19, 0x3B, 0x11, 0x00, 0x5E, 0x13, 0x46, 0x74,
   0x53, 0x78, 0x46, 0x00, 0x1E, 0x5F, 0x52, 0x22, 0x3A, 0x34, 0x30, 0x44, 0x45, 0x30, 0x5E, 0x4F, 0x3D, 0x4B, 0x47, 0x22,
   0x51, 0x46, 0x49, 0x12, 0x36, 0x01, 0x43, 0x11, 0x2D, 0x57, 0x5D, 0x5D, 0x19, 0x51, 0x05, 0x08, 0x58, 0x2A, 0x5F, 0x55,
   0x0D, 0x00, 0x02, 0x54, 0x00, 0x3C, 0x0B, 0x46, 0x29, 0x78, 0x1B, 0x2A, 0x0D, 0x04, 0x27, 0x2F, 0x3B, 0x61, 0x78, 0x15,
   0x58, 0x69, 0x48, 0x59, 0x6E, 0x45, 0x54, 0x0A, 0x0F, 0x06, 0x60, 0x65, 0x2F, 0x5A, 0x68, 0x41, 0x08, 0x35, 0x34, 0x42,
   0x58, 0x77, 0x1E, 0x02, 0x43, 0x27, 0x10, 0x18, 0x71, 0x08, 0x2F, 0x50, 0x79, 0x19, 0x5C, 0x36, 0x54, 0x36, 0x59, 0x20,
   0x00, 0x08, 0x3E, 0x54, 0x07, 0x6B, 0x0B, 0x55, 0x78, 0x6A, 0x4D, 0x44, 0x46, 0x34, 0x3C, 0x08, 0x53, 0x3C, 0x04, 0x7E,
   0x38, 0x33, 0x12, 0x15, 0x7D, 0x11, 0x4A, 0x1D, 0x44, 0x2B, 0x0C, 0x22, 0x28, 0x10, 0x58, 0x62, 0x7E, 0x49, 0x3A, 0x05,
   0x6A, 0x10, 0x48, 0x42, 0x1C, 0x5E, 0x70, 0x0A, 0x18, 0x40, 0x07, 0x40, 0x74, 0x29, 0x3F, 0x50, 0x13, 0x78, 0x25, 0x49,
   0x38, 0x73, 0x04, 0x2A, 0x6C, 0x2B, 0x58, 0x7F, 0x5D, 0x32, 0x2B, 0x10, 0x44, 0x02, 0x78, 0x3C, 0x11, 0x58, 0x2D, 0x20,
   0x0C, 0x78, 0x24, 0x0C, 0x10, 0x21, 0x4A, 0x51, 0x39, 0x2D, 0x52, 0x2A, 0x04, 0x7F, 0x7C, 0x02, 0x3A, 0x03, 0x1D, 0x26,
   0x0E, 0x11, 0x2B, 0x51, 0x0A, 0x57, 0x28, 0x5B, 0x47, 0x1C, 0x50, 0x00, 0x69, 0x6A, 0x14, 0x59, 0x32, 0x75, 0x64, 0x15,
   0x16, 0x1B, 0x2A, 0x2A, 0x45, 0x29, 0x36, 0x08, 0x4C, 0x22, 0x70, 0x50, 0x45, 0x68, 0x77, 0x15, 0x53, 0x05, 0x3F, 0x30,
   0x62, 0x26, 0x3F, 0x08, 0x3F, 0x3C, 0x2F, 0x54, 0x3E, 0x01, 0x10, 0x41, 0x39, 0x38, 0x79, 0x6E, 0x1C, 0x0D, 0x4A, 0x28,
   0x2A, 0x54, 0x58, 0x1D, 0x56, 0x67, 0x0B, 0x41, 0x7C, 0x57, 0x29, 0x72, 0x0B, 0x07, 0x26, 0x28]

/-! ## WellFormed refuses an ill-formed term of each check -/

/-- Both known profiles are legal. -/
theorem test_wf_accepts_known_profiles : pA.wellFormed = true ∧ pB.wellFormed = true := by decide

theorem test_wf_refuses_empty_midi_key : Profile.wellFormed { pA with midiKey := [] } = false := by decide
theorem test_wf_refuses_short_app_key : Profile.wellFormed { pA with appKey := rep 0 55 } = false := by decide
theorem test_wf_refuses_reversed_range : Profile.wellFormed { pA with encLo := 0x5B } = false := by decide
theorem test_wf_refuses_block_above_chip : Profile.wellFormed { pA with encHi := 0x80 } = false := by decide
theorem test_wf_refuses_unaligned_start : Profile.wellFormed { pA with appStart := 0x4001 } = false := by decide
theorem test_wf_refuses_start_above_chip : Profile.wellFormed { pA with appStart := 0x80000 } = false := by decide
theorem test_wf_refuses_unclean_event : Instr.wellFormed (.asmAccept ⟨0, 0, 0x34, [0x80]⟩) = false := by decide
theorem test_wf_refuses_unclean_payload : Instr.wellFormed (.evtWriteFlash 0 0 [0x7F, 0x80]) = false := by decide
theorem test_wf_refuses_profile_operand :
    Instr.wellFormed (.sbWrap { pA with midiKey := [] } []) = false ∧
    Instr.wellFormed (.asmPreset { pA with midiKey := [] }) = false ∧
    Instr.wellFormed (.encodeImage { pA with midiKey := [] } 0 [] []) = false ∧
    Instr.wellFormed (.appkeyRecover [] { pA with midiKey := [] }) = false ∧
    Instr.wellFormed (.recFlash 0 0 ⟨{ pA with midiKey := [] }, rep 0 256⟩) = false ∧
    Instr.wellFormed (.recMsg 0 ⟨{ pA with midiKey := [] }, rep 0 256⟩) = false := by decide +kernel
theorem test_wf_refuses_two_texts_per_ordinal : Instr.wellFormed (.encodeImage pA 0 [] [(3, []), (3, [1])]) = false := by decide
theorem test_wf_refuses_short_block : Instr.wellFormed (.flashview [(0, rep 0 16)]) = false := by decide
theorem test_wf_refuses_block_index_0x80 : Instr.wellFormed (.partSens (mapOf [0x80]) 0 0) = false := by decide +kernel
theorem test_wf_refuses_unordered_map :
    Instr.wellFormed (.appkeyRecover (mapOf [2, 1]) pA) = false ∧ Instr.wellFormed (.flashview (mapOf [1, 1])) = false := by
  decide +kernel
theorem test_wf_refuses_range_above_chip :
    Instr.wellFormed (.partSens [] 0x80 0) = false ∧ Instr.wellFormed (.partSens [] 0 0x80) = false ∧
    Instr.wellFormed (.partFill [] 0x80 0) = false ∧ Instr.wellFormed (.partFill [] 0 0x80) = false ∧
    Instr.wellFormed (.partFill [(0, [])] 0 0) = false := by decide
theorem test_wf_refuses_message_number : Instr.wellFormed (.recFlash 0xFF00 0 ⟨pA, rep 0 256⟩) = false := by decide +kernel
theorem test_wf_refuses_record_lengths :
    Instr.wellFormed (.recFlash 0 0 ⟨pA, rep 0 255⟩) = false ∧ Instr.wellFormed (.recMsg 0 ⟨pA, rep 0 257⟩) = false := by decide +kernel

/-! ## Words written out from 30_encoding.md (R70, R72, R73, R81) -/

/-- U1 to U4: OP 0x01..0x05. -/
theorem test_decode_codecs :
    decode ⟨.op, [0x01], [.buf [1]]⟩ = .ok (.pack [1]) ∧
    decode ⟨.op, [0x02], [.buf [2]]⟩ = .ok (.unpack [2]) ∧
    decode ⟨.op, [0x03], [.buf [3], .buf [4]]⟩ = .ok (.xork [3] [4]) ∧
    decode ⟨.op, [0x04], [.buf [5]]⟩ = .ok (.csum [5]) ∧
    decode ⟨.op, [0x05], [.half 0x0102, .buf [6]]⟩ = .ok (.bac 0x0102 [6]) := ⟨rfl, rfl, rfl, rfl, rfl⟩

/-- U5: OP 0x10..0x15. -/
theorem test_decode_envelope :
    decode ⟨.op, [0x10], []⟩ = .ok .envReset ∧
    decode ⟨.op, [0x11], [.byte 0xF0]⟩ = .ok (.envFeed 0xF0) ∧
    decode ⟨.op, [0x12], []⟩ = .ok .envEnd ∧
    decode ⟨.op, [0x13], [.buf [1]]⟩ = .ok (.envScan [1]) ∧
    decode ⟨.op, [0x14], [.byte 1, .byte 2, .byte 3, .buf [4]]⟩ = .ok (.envBuild 1 2 3 [4]) ∧
    decode ⟨.op, [0x15], [.buf [1]]⟩ = .ok (.envDetect [1]) := ⟨rfl, rfl, rfl, rfl, rfl, rfl⟩

/-- U6, records: OP 0x20..0x23. -/
theorem test_decode_records :
    decode ⟨.op, [0x20], [.half 0x07FF, .buf [1]]⟩ = .ok (.sbBuild 0x07FF [1]) ∧
    decode ⟨.op, [0x21], [.buf [1]]⟩ = .ok (.sbParse [1]) ∧
    decode ⟨.op, [0x22], [.buf [1]]⟩ = .ok (.msgBuild [1]) ∧
    decode ⟨.op, [0x23], [.profile pA, .buf [1]]⟩ = .ok (.sbWrap pA [1]) := ⟨rfl, rfl, rfl, rfl⟩

/-- U6, the assembler: OP 0x30..0x36, of which 0x34 is unassigned. -/
theorem test_decode_assembler :
    decode ⟨.op, [0x30], []⟩ = .ok .asmReset ∧
    decode ⟨.op, [0x31], [.profile pA]⟩ = .ok (.asmPreset pA) ∧
    decode ⟨.op, [0x32], [.buf [1], .seven 0x12]⟩ = .ok (.asmIdent [1] 0x12) ∧
    decode ⟨.op, [0x33], [.event ⟨0x7F, 0x12, 0x34, [1]⟩]⟩ = .ok (.asmAccept ⟨0x7F, 0x12, 0x34, [1]⟩) ∧
    decode ⟨.op, [0x34], []⟩ = .error (.unassignedOp 0x34) ∧
    decode ⟨.op, [0x35], []⟩ = .ok .asmGetblocks ∧
    decode ⟨.op, [0x36], [.map []]⟩ = .ok (.flashview []) := ⟨rfl, rfl, rfl, rfl, rfl, rfl, rfl⟩

/-- The composites and the non-CORE operations: OP 0x40, 0x41, 0x50..0x53. -/
theorem test_decode_composites :
    decode ⟨.op, [0x40], [.buf [1]]⟩ = .ok (.decodeStream [1]) ∧
    decode ⟨.op, [0x41], [.profile pA, .num 0x4000, .buf [1], .texts [(0, [2])]]⟩ = .ok (.encodeImage pA 0x4000 [1] [(0, [2])]) ∧
    decode ⟨.op, [0x50], [.map [], .num 4, .num 0x5A]⟩ = .ok (.partSens [] 4 0x5A) ∧
    decode ⟨.op, [0x51], [.map [], .num 4, .num 7]⟩ = .ok (.partFill [] 4 7) ∧
    decode ⟨.op, [0x52], [.map [], .profile pA]⟩ = .ok (.appkeyRecover [] pA) ∧
    decode ⟨.op, [0x53], [.buf [1], .buf [2]]⟩ = .ok (.partAppdec [1] [2]) := ⟨rfl, rfl, rfl, rfl, rfl, rfl⟩

/-- EVT (R70): F0, the vendor tag, device, model, command, payload, F7; another command is an event for ASM.ACCEPT. -/
theorem test_decode_events :
    decode ⟨.event, [0xF0, 0x00, 0x20, 0x32, 0x7F, 0x12, 0x34, 0x05, 0xF7], []⟩ = .ok (.evtWriteFlash 0x7F 0x12 [5]) ∧
    decode ⟨.event, [0xF0, 0x00, 0x20, 0x32, 0x00, 0x12, 0x20, 0xF7], []⟩ = .ok (.asmAccept ⟨0, 0x12, 0x20, []⟩) ∧
    decode ⟨.event, [0xF0, 0x00, 0x20, 0x33, 0x7F, 0x12, 0x34, 0xF7], []⟩ = .error (.noSuchForm .event) ∧
    decode ⟨.event, [0xF0, 0x00, 0x20, 0x32, 0x7F, 0x12, 0x34, 0x80, 0xF7], []⟩ = .error (.noSuchForm .event) ∧
    decode ⟨.event, [0xF0, 0x00, 0x20, 0x32, 0x7F, 0x12, 0x34], []⟩ = .error (.noSuchForm .event) :=
  ⟨rfl, rfl, rfl, rfl, rfl⟩

/-- REC (R72, R80): 0xFF00 is a message, its neighbours 0xFEFF and 0xFF01 are flash sub-blocks. -/
theorem test_decode_record_forms :
    (decode ⟨.record, [0xFF, 0x00, 0x47] ++ rep 1 256, [.profile pA]⟩).toOption = some (.recMsg 0x47 ⟨pA, rep 1 256⟩) ∧
    (decode ⟨.record, [0xFE, 0xFF, 0x47] ++ rep 1 256, [.profile pA]⟩).toOption = some (.recFlash 0xFEFF 0x47 ⟨pA, rep 1 256⟩) ∧
    (decode ⟨.record, [0xFF, 0x01, 0x47] ++ rep 1 256, [.profile pA]⟩).toOption = some (.recFlash 0xFF01 0x47 ⟨pA, rep 1 256⟩) ∧
    (decode ⟨.record, [0x00, 0x40, 0x47] ++ rep 1 255, [.profile pA]⟩).toOption = none ∧
    (decode ⟨.record, [0x00, 0x40, 0x47] ++ rep 1 256, []⟩).toOption = none := by decide +kernel

/-- GRP (R73): seven low-seven-bit bytes, then `H`; a set bit 7 is no group. -/
theorem test_decode_group :
    decode ⟨.group, [0, 1, 2, 3, 4, 5, 6, 0x7F], []⟩ = .ok (.grp 0 1 2 3 4 5 6 0x7F) ∧
    decode ⟨.group, [0, 1, 2, 3, 4, 5, 6, 0x80], []⟩ = .error (.noSuchForm .group) := ⟨rfl, rfl⟩

/-- Operands that are not those of the code, and bytes that are no `OP`. -/
theorem test_decode_rejects :
    decode ⟨.op, [0x01], []⟩ = .error (.badOperands 0x01) ∧
    decode ⟨.op, [0x31], [.profile { pA with midiKey := [] }]⟩ = .error (.badOperands 0x31) ∧
    decode ⟨.op, [], []⟩ = .error (.noSuchForm .op) ∧
    decode ⟨.op, [0x54], []⟩ = .error (.unassignedOp 0x54) := ⟨rfl, rfl, rfl, rfl⟩

/-- The table's numbering of a form's bits: byte 0 the most significant. -/
theorem test_table_words :
    decodeTableWord 16 0xFF00 = some (.recMsg 0 ⟨zeroProfile, rep 0 256⟩) ∧
    decodeTableWord 16 0x0040 = some (.recFlash 0x40 0 ⟨zeroProfile, rep 0 256⟩) ∧
    decodeTableWord 56 0xF0002032001234 = some (.evtWriteFlash 0 0x12 []) ∧
    decodeTableWord 64 0x0001020304050607 = some (.grp 0 1 2 3 4 5 6 7) := by decide +kernel

/-- A word presented to the machine after reset is the next one it runs. -/
theorem test_fetch_word : answerOf (step (State.reset.withFetchWord 8 0x04)) = some (.byte 0x42) := by decide +kernel

/-! ## One step each, from 95_test_vectors.md -/

/-- V-P8, V-P10: two groups, the second padded; only `b6` high. -/
theorem test_pack :
    answerOf (exec (.pack [0x01, 0x82, 0x03, 0x84, 0x05, 0x86, 0x07, 0x88]) .reset) =
      some (.bytes [1, 2, 3, 4, 5, 6, 7, 0x2A, 8, 0, 0, 0, 0, 0, 0, 0x40]) ∧
    answerOf (exec (.pack [0, 0, 0, 0, 0, 0, 0x80]) .reset) = some (.bytes [0, 0, 0, 0, 0, 0, 0, 1]) := by decide

/-- V-U2, V-U7 and the length fault. -/
theorem test_unpack :
    answerOf (exec (.unpack [0, 1, 2, 3, 4, 5, 6, 0x7F]) .reset) =
      some (.bytes [0x80, 0x81, 0x82, 0x83, 0x84, 0x85, 0x86]) ∧
    answerOf (exec (.unpack [0x80, 0, 0, 0, 0, 0, 0, 0x80]) .reset) = some (.bytes [0x80, 0, 0, 0, 0, 0, 0]) ∧
    answerOf (exec (.unpack [0, 0, 0, 0, 0, 0, 0, 0, 0]) .reset) = some (.raised (.badLength 9)) := by decide

/-- R73, R100: the group of V-P5 stands for its seven bytes. -/
theorem test_grp :
    answerOf (exec (.grp 0 1 2 3 4 5 6 0x7F) .reset) = some (.bytes [0x80, 0x81, 0x82, 0x83, 0x84, 0x85, 0x86]) ∧
    answerOf (exec (.grp 0 0 0 0 0 0 0 1) .reset) = some (.bytes [0, 0, 0, 0, 0, 0, 0x80]) := by decide

/-- V-X2; an empty key is refused (D7). -/
theorem test_xork :
    answerOf (exec (.xork Config.midiKeyA [0xFF, 0x00, 0x47, 0x55, 0x50, 0x44, 0x41]) .reset) =
      some (.bytes [0xAB, 0x5A, 0x60, 0x65, 0x64, 0x10, 0x1B]) ∧
    refusalOf (exec (.xork [] [1]) .reset) = some .emptyKey := by decide

/-- V-C9; V-C5 and the length fault. -/
theorem test_csum :
    answerOf (exec (.csum (updating ++ rep 0 239)) .reset) = some (.byte 0x47) ∧ ck [0x55] = 0x1E ∧
    answerOf (exec (.csum (rep 0 257)) .reset) = some (.raised (.badLength 257)) := by decide +kernel

/-- V-K1, V-K3: the first words of the key stream for bases 0 and 4; V-K9. -/
theorem test_bac :
    (cipher 0 (rep 0 16)) = [0x2D, 0x2A, 0x14, 0x55, 0x8A, 0x2A, 0x45, 0x15, 0xA0, 0x4A, 0x50, 0x25, 0xA8, 0x12, 0x54, 0x09] ∧
    (cipher 4 (rep 0 16)) = [0x02, 0x00, 0x01, 0x00, 0x02, 0x40, 0x01, 0x20, 0x02, 0x50, 0x01, 0x28, 0x02, 0x54, 0x01, 0x2A] ∧
    refusalOf (exec (.bac 4 (rep 0 4095)) .reset) = some (.blockLength 4095) := by decide +kernel

/-- V-N2: the terminator of a good event; V-N1: a terminator F0 opens the next event. -/
theorem test_env_feed :
    answerOf (exec (.envFeed 0xF7) (inEvent [0x00, 0x20, 0x32, 0x7F, 0x12, 0x34])) = some (.event (some ⟨0x7F, 0x12, 0x34, []⟩)) ∧
    (nextOf (exec (.envFeed 0xF0) (inEvent [0x00, 0x20, 0x32, 0x7F, 0x12]))).map (fun t => (t.st, t.acc, t.skiplog)) =
      some (.inEvent, [], [.malformedEnvelope (.badTerminator 0xF0) [0x00, 0x20, 0x32, 0x7F, 0x12]]) := by decide

/-- V-N1: the whole stream. -/
theorem test_env_scan :
    (nextOf (exec (.envScan [0x00, 0xF7, 0xF0, 0x00, 0x20, 0x32, 0x7F, 0x12, 0x34, 0x01, 0x02, 0xF7, 0xF0, 0x00, 0x20, 0x33, 0x00,
      0x00, 0x00, 0xF7, 0xF0, 0x00, 0x20, 0x32, 0x7F, 0x12, 0xF0, 0x00, 0x20, 0x32, 0x00, 0x12, 0x20, 0xF7, 0xF0, 0x00, 0x20, 0x32,
      0x7F, 0xF7, 0xF0, 0x01, 0x02]) (inEvent [1]))).map (fun t => (t.answer, t.skiplog)) =
    some (.events [⟨0x7F, 0x12, 0x34, [1, 2]⟩, ⟨0x00, 0x12, 0x20, []⟩],
      [.trailingGarbage 0x00, .trailingGarbage 0xF7, .malformedEnvelope .wrongVendor [0x00, 0x20, 0x33, 0x00, 0x00, 0x00],
       .malformedEnvelope (.badTerminator 0xF0) [0x00, 0x20, 0x32, 0x7F, 0x12],
       .malformedEnvelope .truncatedHeader [0x00, 0x20, 0x32, 0x7F], .malformedEnvelope .truncatedEvent [1, 2]]) := by
  decide +kernel

/-- R145: the end of the input inside an event, and outside one. -/
theorem test_env_end :
    (nextOf (exec .envEnd (inEvent [1, 2]))).map (fun t => (t.st, t.acc, t.skiplog)) =
      some (.searching, [], [.malformedEnvelope .truncatedEvent [1, 2]]) ∧
    (nextOf (exec .envEnd .reset)).map (fun t => (t.st, t.skiplog)) = some (.searching, []) := by decide

/-- R140. -/
theorem test_env_reset :
    (nextOf (exec .envReset { inEvent [1] with skiplog := [.trailingGarbage 0] })).map (fun t => (t.st, t.acc, t.skiplog)) =
      some (.searching, [], []) := by decide

/-- V-N3. -/
theorem test_env_build :
    answerOf (exec (.envBuild 0x00 0x12 0x20 [0x01, 0x02, 0x7F]) .reset) =
      some (.bytes [0xF0, 0x00, 0x20, 0x32, 0x00, 0x12, 0x20, 0x01, 0x02, 0x7F, 0xF7]) ∧
    refusalOf (exec (.envBuild 0x80 0x12 0x34 []) .reset) = some .uncleanByte := by decide

/-- V-N4. -/
theorem test_env_detect :
    detect [] = false ∧ detect [0xF0] = false ∧ detect [0xF0, 0xF7] = true ∧ detect [0xF0, 0x80, 0xF7] = false ∧
    detect [0xF0, 0xF8, 0xF7] = true ∧ detect [0xF0, 0x01, 0xF7, 0x00] = false ∧ detect [0xF7, 0xF0] = false := by decide

/-- V-E6. -/
theorem test_sb_build :
    answerOf (exec (.sbBuild 0x07FF (rep 0xFF 256)) .reset) = some (.bytes ([0x07, 0xFF, 0xBF] ++ rep 0xFF 256)) ∧
    answerOf (exec (.sbBuild 0 (rep 0 255)) .reset) = some (.raised (.shortBlock 255)) := by decide +kernel

/-- V-E6: bytes past offset 258 ignored, the checksum not verified. -/
theorem test_sb_parse :
    answerOf (exec (.sbParse ([0x12, 0x34, 0x56] ++ rep 0xAA 256 ++ [0x99, 0x99])) .reset) =
      some (.record 0x1234 0x56 (rep 0xAA 256)) ∧
    answerOf (exec (.sbParse (rep 0 258)) .reset) = some (.raised (.badLength 258)) := by decide +kernel

/-- V-E1, V-E5. -/
theorem test_msg_build :
    answerOf (exec (.msgBuild updating) .reset) = some (.bytes ([0xFF, 0x00, 0x47] ++ updating ++ rep 0 239)) ∧
    answerOf (exec (.msgBuild (rep 0x41 257)) .reset) = some (.raised (.shortBlock 257)) := by decide +kernel

/-- V-E4: the header and the first three groups, the last bytes, the length. -/
theorem test_sb_wrap :
    (answerOf (exec (.sbWrap pA ([0xFF, 0x00, 0x47] ++ updating ++ rep 0 239)) .reset)).map (fun a =>
      match a with
      | .bytes ev => (ev.take 31, ev.drop 295, ev.length)
      | _ => ([], [], 0)) =
    some ([0xF0, 0x00, 0x20, 0x32, 0x7F, 0x12, 0x34, 0x2B, 0x5A, 0x60, 0x65, 0x64, 0x10, 0x1B, 0x40, 0x73, 0x79, 0x7A, 0x13, 0x7A,
        0x61, 0x79, 0x00, 0x66, 0x19, 0x0D, 0x66, 0x62, 0x71, 0x54, 0x00],
      [0x27, 0x30, 0x34, 0x54, 0x5A, 0x27, 0x30, 0x00, 0xF7], 304) ∧
    answerOf (exec (.sbWrap pA (rep 0 260)) .reset) = some (.raised (.shortBlock 260)) := by decide +kernel

/-- R161: the reset leaves FAULTED. -/
theorem test_asm_reset :
    nextOf (exec .asmReset { faulted with store := [(1, [2])], ord := 3, msgs := [(0, [1])], seenModel := some 4 }) =
      some { ready [pA] with answer := .done } := by decide

/-- R162: set once, and refused when set or FAULTED. -/
theorem test_asm_preset :
    (nextOf (exec (.asmPreset pB) (ready [pA]))).map State.prof = some (some pB) ∧
    refusalOf (exec (.asmPreset pB) inPassA) = some .profileAlreadySet ∧
    refusalOf (exec (.asmPreset pB) faulted) = some .passFaulted := by decide

/-- R166 on V-F1's event 0 (0x58 = 0x58): the trial matches, and the first of the registry wins (V-D3). -/
theorem test_asm_ident :
    answerOf (exec (.asmIdent (unpackGroups 37 payloadF1) 0x12) (ready [pA, pB])) = some (.profile pA) ∧
    answerOf (exec (.asmIdent (unpackGroups 37 payloadF1) 0x12) (ready [pB, pA])) = some (.profile pB) := by decide +kernel

/-- R167: no match and two candidates; no candidate. -/
theorem test_asm_ident_ambiguous :
    answerOf (exec (.asmIdent (rep 0xFF 259) 0x12) (ready [pA, pB])) = some (.raised (.ambiguousProfile 0x12 2)) ∧
    answerOf (exec (.asmIdent (rep 0xFF 259) 0x12) (ready [])) = some (.raised (.ambiguousProfile 0x12 0)) := by decide +kernel

/-- V-D1 with V-F1's event 0: sub-block 0x0040, its first data bytes, `ord`, the model ID. -/
theorem test_asm_accept :
    (nextOf (exec (.asmAccept ⟨0x7F, 0x12, 0x34, payloadF1⟩) (ready [pA]))).map
      (fun t => { t with store := t.store.map fun c => (c.1, c.2.take 4 ++ c.2.drop 252) }) =
    some { inPassA with
      store := [(0x0040, [0x2F, 0x20, 0x4E, 0x52, 0xA6, 0x51, 0x20, 0x16])], ord := 1, seenModel := some 0x12, answer := .done } := by
  decide +kernel

/-- V-D2: byte 9 of the payload changed from 37 to 36. -/
theorem test_asm_accept_mismatch :
    nextOf (exec (.asmAccept ⟨0x7F, 0x12, 0x34, payloadF1.set 9 0x36⟩) (ready [pA])) =
    some { inPassA with
      seenModel := some 0x12, asmStatus := .faulted .checksumMismatch,
      answer := .raised (.checksumMismatch 0x0040 0x58 0x56) } := by decide +kernel

/-- V-D4: 295 bytes, 288 bytes; another command; FAULTED. -/
theorem test_evt_write_flash :
    answerOf (exec (.evtWriteFlash 0x7F 0x12 (rep 0 295)) (ready [pA])) = some (.raised (.badLength 295)) ∧
    answerOf (exec (.evtWriteFlash 0x7F 0x12 (rep 0 288)) (ready [pA])) = some (.raised (.badLength 252)) ∧
    (nextOf (exec (.asmAccept ⟨0, 0x12, 0x20, []⟩) (ready [pA]))).map (fun t => (t.skiplog, t.seenModel)) =
      some ([.unknownCommand 0x20], none) ∧
    refusalOf (exec (.evtWriteFlash 0x7F 0x12 []) faulted) = some .passFaulted := by decide +kernel

/-- V-D4: a number above 0x07FF is stored and counted, and replaces an earlier value (V-C6). -/
theorem test_rec_flash :
    (nextOf (exec (.recFlash 0x0800 0x42 ⟨pA, rep 0 256⟩) { inPassA with store := [(0x0800, rep 1 256)], ord := 1 })).map
      (fun t => (t.store, t.ord)) = some ([(0x0800, rep 0 256)], 2) ∧
    answerOf (exec (.recFlash 0x0040 0x43 ⟨pA, rep 0 256⟩) inPassA) = some (.raised (.checksumMismatch 0x0040 0x43 0x42)) := by
  decide +kernel

/-- V-D4, R163: the record of V-E4 accepted after reset with `PROFILES = [A]`: the profile, the message, `ord` and the store. -/
theorem test_rec_msg :
    nextOf (exec (.recMsg 0x47 ⟨pA, updating ++ rep 0 239⟩) (ready [pA])) =
      some { inPassA with msgs := [(0, updating)], seenModel := some 0x12, answer := .done } := by decide +kernel

/-- V-D5: 15 of 16 sub-blocks are no block. -/
theorem test_getblocks_incomplete :
    answerOf (exec .asmGetblocks { inPassA with store := (List.range 15).map fun s => (s, rep 1 256) }) = some (.blocks []) := by
  decide +kernel

/-- R170: block 1 (outside 4..0x5A) as stored, block 4 deciphered with the key stream of V-K3. -/
theorem test_getblocks :
    (answerOf (exec .asmGetblocks { inPassA with
      store := ((List.range 16).map fun s => (16 + s, rep 1 256)) ++ (List.range 16).map fun s => (64 + s, rep 0 256) })).map
      (fun a => match a with | .blocks m => m.map fun c => (c.1, c.2.take 8, c.2.length) | _ => []) =
    some [(1, [1, 1, 1, 1, 1, 1, 1, 1], 4096), (4, [0x02, 0x00, 0x01, 0x00, 0x02, 0x40, 0x01, 0x20], 4096)] := by decide +kernel

/-- V-T1: the gap at block 6 ends the view; a gap before the first block does not. -/
theorem test_part_sens :
    answerOf (exec (.partSens (shortMap [4, 5, 7]) 4 0x5A) .reset) = some (.rendering (some 4) [4, 5]) ∧
    answerOf (exec (.partSens (shortMap [6, 7]) 4 0x5A) .reset) = some (.rendering (some 6) [6, 7]) := by decide

/-- V-T1. -/
theorem test_part_fill :
    (answerOf (exec (.partFill (shortMap [4, 5, 7]) 4 7) .reset)).map (fun a =>
      match a with
      | .bytes img => (img.take 3, img.drop (2 + 4095))
      | _ => ([], [])) = some ([4, 5, 0xFF], [0xFF, 7]) := by decide +kernel

/-- V-D5, R172: the blocks in order, 4096 bytes of 0xFF for the missing one. -/
theorem test_flashview :
    let img := flashView (shortMap ((List.range 128).filter fun i => i != 5))
    img.take 6 = [0, 1, 2, 3, 4, 0xFF] ∧ img.drop (5 + 4095) = 0xFF :: (List.range' 6 122).map (BitVec.ofNat 8) := by
  decide +kernel

/-- V-T2: with block 2 absent, the profile's key. -/
theorem test_appkey_default : answerOf (exec (.appkeyRecover (mapOf [0, 1, 3]) pB) .reset) = some (.bytes Config.appKeyB) := by
  decide +kernel

/-- V-T2: zeros at 0x3002, the key at 0x303A. -/
theorem test_appkey_recover :
    answerOf (exec (.appkeyRecover [(0, rep 1 4096), (1, rep 1 4096), (2, rep 1 4096),
      (3, rep 1 2 ++ rep 0 56 ++ Config.appKeyA ++ rep 1 3982)] pB) .reset) = some (.bytes Config.appKeyA) := by decide +kernel

/-- R208: the key index is 0 at the first byte. -/
theorem test_part_appdec :
    answerOf (exec (.partAppdec [0x2D, 0x20, 0x4F] Config.appKeyA) .reset) = some (.bytes [0, 0, 0]) ∧
    refusalOf (exec (.partAppdec [1] []) .reset) = some .emptyKey := by decide

/-- V-F4: the faults of ENCODE and the one-message stream. -/
theorem test_encode_faults :
    answerOf (exec (.encodeImage pA 0x4800 [1] []) (ready [pA])) = some (.raised (.badAddress 0x4800 none)) ∧
    answerOf (exec (.encodeImage pA 0x7F000 (rep 0 4097) []) (ready [pA])) = some (.raised (.badAddress 0x7F000 (some 2))) ∧
    answerOf (exec (.encodeImage pA 0x4000 [] []) (ready [pB])) = some (.raised (.unsupportedDevice pA)) ∧
    answerOf (exec (.encodeImage pA 0x4000 [] [(1, rep 0x41 257)]) (ready [pA])) = some (.bytes []) ∧
    answerOf (exec (.encodeImage pA 0x4000 [] [(0, rep 0x41 257)]) (ready [pA])) = some (.raised (.shortBlock 257)) := by
  decide +kernel

/-- V-F2: the list of events the statement on ENCODE speaks of, at its first event. -/
theorem test_stream_events :
    ((streamEvents pA 0x7F000 (flashImage pA 0x7F000 [1, 2, 3]) [] 1).take 1).map (fun e => e.bytes.take 24) =
    [[0xF0, 0x00, 0x20, 0x32, 0x7F, 0x12, 0x34, 0x53, 0x2A, 0x1C, 0x31, 0x36, 0x57, 0x25, 0x31, 0x58, 0x4F, 0x4B, 0x2B, 0x25,
      0x58, 0x4F, 0x7F, 0x4B]] := by decide +kernel

/-- V-F2: padding, no application XOR, no cipher; the first bytes of event 0. -/
theorem test_encode_event :
    (match emitSub pA [] 0x7F 0 (padBlocks [1, 2, 3]) 0 with | .value ev => (ev.take 24, ev.length) | _ => ([], 0)) =
    ([0xF0, 0x00, 0x20, 0x32, 0x7F, 0x12, 0x34, 0x53, 0x2A, 0x1C, 0x31, 0x36, 0x57, 0x25, 0x31, 0x58, 0x4F, 0x4B, 0x2B, 0x25,
      0x58, 0x4F, 0x7F, 0x4B], 304) := by decide +kernel

/-- V-D6. -/
theorem test_decode_stream :
    answerOf (exec (.decodeStream [0xF0, 0xF7]) (ready [pA])) = some (.bundle ⟨none, [], .sysex, [], none⟩) ∧
    refusalOf (exec (.decodeStream [0xF0, 0xF7, 0x00]) (ready [pA])) = some .notSysex := by decide

/-- The codes of the ten kinds (60_exceptions.md R220). -/
theorem test_kind_codes :
    [Kind.malformedEnvelope, .badLength, .checksumMismatch, .unknownCommand, .ambiguousProfile, .unknownProfile,
      .unsupportedDevice, .shortBlock, .badAddress, .trailingGarbage].map Kind.code = [1, 2, 3, 4, 5, 6, 7, 8, 9, 10] := by decide

/-! ## A witness for the hypotheses of every statement that has some

The name after `witness_` is the statement's. Where a statement has several clauses, each has its witness, at a boundary of its
range. -/

/-- A state in the middle of everything. -/
def busy : State :=
  { ready [pA, pB] with
    st := .inEvent, acc := [0x00, 0x7F], skiplog := [.trailingGarbage 0], store := [(0x07FF, rep 1 256)], prof := some pA, ord := 1,
    msgs := [(0, [0x41])], seenModel := some 0x7F, pending := [⟨.op, [0x11], [.byte 0xF7]⟩] }

theorem witness_EncodedInstructionDecodesBack :
    Instr.wellFormed (.asmAccept ⟨0x7F, 0, 0x7F, [0x7F]⟩) = true ∧ Instr.wellFormed (.evtWriteFlash 0x7F 0x7F [0, 0x7F]) = true ∧
    Instr.wellFormed (.recFlash 0xFEFF 0xFF ⟨pA, rep 0xFF 256⟩) = true ∧ Instr.wellFormed (.recFlash 0xFF01 0 ⟨pB, rep 0 256⟩) = true ∧
    Instr.wellFormed (.recMsg 0xFF ⟨pB, rep 0xFF 256⟩) = true ∧ Instr.wellFormed (.asmPreset pB) = true ∧
    Instr.wellFormed (.partSens [] 0x7F 0) = true ∧ Instr.wellFormed (.encodeImage pA 1 [] [(5, []), (0, [0])]) = true := by
  decide +kernel

theorem witness_DecodedInstructionIsWellFormed :
    decode ⟨.op, [0x50], [.map [], .num 0, .num 0x7F]⟩ = .ok (.partSens [] 0 0x7F) ∧
    decode ⟨.event, [0xF0, 0x00, 0x20, 0x32, 0x7F, 0x7F, 0x34, 0x7F, 0xF7], []⟩ = .ok (.evtWriteFlash 0x7F 0x7F [0x7F]) := ⟨rfl, rfl⟩

theorem witness_UnassignedOpIsRefused :
    ({ busy with pending := [⟨.op, [0x34], []⟩] } : State).pending = ⟨.op, [0x34], []⟩ :: [] ∧
    ∀ code ∈ ([0x00, 0x06, 0x0F, 0x16, 0x24, 0x34, 0x37, 0x42, 0x54, 0xFF] : List Byte), code ∉ ([0x01, 0x02, 0x03, 0x04, 0x05, 0x10,
      0x11, 0x12, 0x13, 0x14, 0x15, 0x20, 0x21, 0x22, 0x23, 0x30, 0x31, 0x32, 0x33, 0x35, 0x36, 0x40, 0x41, 0x50, 0x51, 0x52,
      0x53] : List Byte) := ⟨rfl, by decide⟩

/-- A transaction that decodes, an empty queue, operands that are not the code's, bytes that are no form. -/
theorem witness_StepRunsTheDecodedInstruction :
    busy.pending = ⟨.op, [0x11], [.byte 0xF7]⟩ :: [] ∧ decode ⟨.op, [0x11], [.byte 0xF7]⟩ = .ok (.envFeed 0xF7) ∧
    State.reset.pending = [] ∧ (present ⟨.op, [0x53], [.buf [1]]⟩ .reset).pending = ⟨.op, [0x53], [.buf [1]]⟩ :: [] ∧
    (∀ i, decode ⟨.op, [0x53], [.buf [1]]⟩ ≠ .ok i) ∧ (∀ i, decode ⟨.op, [0x01, 0x02], []⟩ ≠ .ok i) ∧
    (∀ i, decode ⟨.event, [0xF0, 0xF7], []⟩ ≠ .ok i) ∧ (∀ i, decode ⟨.record, [0xFF, 0x00, 0x42], []⟩ ≠ .ok i) ∧
    ∀ i, decode ⟨.group, [0, 0, 0, 0, 0, 0, 0, 0x80], []⟩ ≠ .ok i :=
  ⟨rfl, rfl, rfl, rfl, fun _ h => (by cases h), fun _ h => (by cases h), fun _ h => (by cases h), fun _ h => (by cases h),
    fun _ h => (by cases h)⟩

/-- The invariant, of a state in the middle of everything, which steps. -/
theorem witness_EveryStepKeepsTheInvariant : busy.Inv ∧ ∃ t, step busy = .next t := by
  refine ⟨⟨by decide, by decide, by decide, by decide +kernel, by decide, by decide, by decide, by decide, by decide, ?_, rfl, ?_, ?_⟩,
    _, rfl⟩
  · intro k h; cases h
  · decide +kernel
  · intro p h; cases h; decide +kernel

theorem witness_FaultedStaysUntilAsmReset :
    faulted.asmStatus = .faulted .checksumMismatch ∧ startsPass (.envScan [0]) = false ∧
    ∃ t, exec (.envScan [0]) faulted = .next t := ⟨rfl, rfl, _, rfl⟩

theorem witness_FaultedPassRefuses : faulted.asmStatus = .faulted .checksumMismatch := rfl

theorem witness_EachRegisterHasItsWriters :
    (∃ t, exec (.pack [1]) busy = .next t) ∧ writesParser (.pack [1]) = false ∧ acceptsEvent (.pack [1]) = false ∧
    startsPass (.pack [1]) = false ∧ pA.midiKey ≠ [] := ⟨⟨_, rfl⟩, rfl, rfl, rfl, by decide⟩

/-- A fault of a stateless operation, of an event, of a record form. -/
theorem witness_FaultIsPrecise :
    (∃ t, exec (.unpack [0]) busy = .next t ∧ t.answer = .raised (.badLength 1) ∧ acceptsEvent (.unpack [0]) = false) ∧
    (∃ t, exec (.asmAccept ⟨0, 0, 0x34, [0]⟩) busy = .next t ∧ t.answer = .raised (.badLength 1)) ∧
    ∃ t, exec (.recFlash 0 0x43 ⟨pA, []⟩) busy = .next t ∧ t.answer = .raised (.badLength 7) :=
  ⟨⟨_, rfl, rfl, rfl⟩, ⟨_, rfl, rfl⟩, ⟨_, rfl, rfl⟩⟩

theorem witness_NothingReadsTheSkipLog :
    clearsLog (.envFeed 0) = false ∧ ∃ t, exec (.envFeed 0) (ready []) = .next t ∧ t.skiplog = [.trailingGarbage 0] :=
  ⟨rfl, _, rfl, rfl⟩

theorem witness_PackEmitsGroupsOfEight : (0 : Nat) < (([1] : Buffer).length + 6) / 7 ∧ (6 : Nat) < 7 := by decide

theorem witness_UnpackRecoversTheHighBits :
    (rep 0 7).length % 8 ≠ 0 ∧ (rep 0 9).length % 8 ≠ 0 ∧ (rep 0 8).length % 8 = 0 ∧ (0 : Nat) < (rep 0 8).length / 8 := by decide

theorem witness_PackAndUnpackAreInverse : (rep 0x7F 8).length % 8 = 0 ∧ ∀ b ∈ rep 0x7F 8, b.toNat < 0x80 := by decide

theorem witness_PackedBytesAreClean : (0x7F : Byte) ∈ pack [0xFF] := by decide

theorem witness_XorkXorsWithTheCycledKey : ([0] : Buffer) ≠ [] ∧ ([] : Buffer) = [] ∧ (0 : Nat) < ([1] : Buffer).length := by decide

theorem witness_XorkTwiceIsTheIdentity : Config.midiKeyA ≠ [] := by decide

theorem witness_CsumIsTheRollingChecksum :
    (rep 0 256).length = 256 ∧ (rep 0 255).length ≠ 256 ∧ (rep 0 257).length ≠ 256 := by simp

theorem witness_ChecksumIsAffine : ([1, 2] : Buffer).length = ([0x80, 0] : Buffer).length := rfl

theorem witness_ChecksumSeesEverySingleBitChange : (rep 0 256).length = 256 ∧ 255 < 256 ∧ 7 < 8 := by simp

theorem witness_ChecksumIsBlindToTheKnownKeys :
    (rep 0 256).length = 256 ∧ Config.midiKeyA.length = 5 ∧ 4 < 5 ∧ 2 < 5 ∧ (0xFF : Byte) ≠ 0 := by simp [Config.midiKeyA]

theorem witness_IdentCannotSeparateTheKnownKeys :
    (ready [pB, pA]).asmStatus = .ok ∧ (ready [pB, pA]).profiles = pB :: [pA] ∧ pB.midiKey = Config.midiKeyB ∧
    pA.midiKey = Config.midiKeyA ∧ (rep 0 256).length = 256 := ⟨rfl, rfl, rfl, rfl, by simp⟩

theorem witness_BacXorsWordsWithTheKeyStream :
    (rep 0 4096).length = 4096 ∧ (rep 0 4095).length ≠ 4096 ∧ (rep 0 4097).length ≠ 4096 ∧ 2047 < 2048 := by simp

theorem witness_BacTwiceIsTheIdentity : (rep 0xFF 4096).length = 4096 := by simp

theorem witness_CipherKeyStaysFifteenBitsAndNonzero : (0x7FFF : Half).toNat < 0x8000 ∧ (rep 0 4096).length = 4096 := by simp

/-- Every row of R147's table. -/
theorem witness_ParserFollowsTheTransitionTable :
    State.reset.st = .searching ∧ (inEvent []).st = .inEvent ∧ (∀ b ∈ ([0x00, 0x7F, 0xEF, 0xF1, 0xF7, 0xFF] : List Byte), b ≠ 0xF0) ∧
    (∀ b ∈ ([0x00, 0x7F] : List Byte), b.toNat < 0x80) ∧
    (∀ b ∈ ([0x80, 0xEF, 0xF1, 0xF6, 0xF8, 0xFF] : List Byte), 0x80 ≤ b.toNat ∧ b ≠ 0xF0 ∧ b ≠ 0xF7) ∧
    (inEvent [0x00, 0x20, 0x32, 0, 1, 2]).acc = [0x00, 0x20, 0x32] ++ 0 :: 1 :: 2 :: [] ∧
    (inEvent [0x00, 0x20]).acc.take 3 ≠ [0x00, 0x20, 0x32] ∧ (inEvent [0x00, 0x20, 0x33, 0, 0, 0]).acc.take 3 ≠ [0x00, 0x20, 0x32] ∧
    (inEvent [0x00, 0x20, 0x32, 0, 0]).acc.take 3 = [0x00, 0x20, 0x32] ∧ (inEvent [0x00, 0x20, 0x32, 0, 0]).acc.length < 6 := by
  decide

theorem witness_BuiltEventsScanBackInOrder :
    ∀ e ∈ ([⟨0x7F, 0x7F, 0x7F, [0x7F, 0]⟩, ⟨0, 0, 0, []⟩] : List Event), e.wellFormed = true := by decide

theorem witness_EnvBuildEmitsTheEvent :
    ((0x7F : Byte).toNat < 0x80 ∧ ∀ b ∈ ([0, 0x7F] : Buffer), b.toNat < 0x80) ∧ ¬ (0x80 : Byte).toNat < 0x80 := by decide

theorem witness_ParsedEventsAreClean :
    (∀ x ∈ (inEvent [0x00, 0x20, 0x32, 0, 0, 0, 0x7F]).acc, x.toNat < 0x80) ∧
    ∃ t, exec (.envFeed 0xF7) (inEvent [0x00, 0x20, 0x32, 0, 0, 0, 0x7F]) = .next t ∧
      t.answer = .event (some ⟨0, 0, 0, [0x7F]⟩) := ⟨by decide, _, rfl, by decide⟩

theorem witness_RecordsAreBuiltAndParsed :
    (rep 0 256).length = 256 ∧ (rep 0 255).length ≠ 256 ∧ 259 ≤ (rep 0 259).length ∧ (rep 0 258).length < 259 := by simp

theorem witness_MessageTextSurvivesThePadding :
    (rep 0x41 256).length ≤ 256 ∧ (0 : Byte) ∉ rep 0x41 256 ∧ 256 < (rep 0x41 257).length ∧ inPassA.asmStatus = .ok ∧
    inPassA.prof = some pA ∧ pA.midiKey ≠ [] ∧ (rep 0 256).length = 256 := by decide +kernel

theorem witness_WrapMakesOneFirmwareEvent :
    pA.midiKey ≠ [] ∧ (rep 0 259).length = 259 ∧ (rep 0 258).length ≠ 259 ∧ (rep 0 260).length ≠ 259 := by
  simp [pA, Config.profileA, Config.midiKeyA]

theorem witness_PresetSetsTheProfileOnce :
    (ready [pA]).prof = none ∧ (ready [pA]).asmStatus = .ok ∧ ¬ (inPassA.prof = none ∧ inPassA.asmStatus = .ok) ∧
    ¬ (faulted.prof = none ∧ faulted.asmStatus = .ok) ∧ inPassA.prof = some pA ∧
    (∃ t, exec (.asmAccept ⟨0, 0, 0x34, []⟩) inPassA = .next t) ∧
    ({ faulted with prof := some pA } : State).prof = some pA ∧
    ∃ r, exec (.asmAccept ⟨0, 0, 0x34, []⟩) { faulted with prof := some pA } = .refused r :=
  ⟨rfl, rfl, by decide, by decide, rfl, ⟨_, rfl⟩, rfl, _, rfl⟩

/-- A profile whose key differs from A's in byte 2, which the checksum detects (R126). -/
def pC : Profile := { pA with midiKey := [0x54, 0x5A, 0x26, 0x30, 0x34], modelId := 0x13 }

/-- A match after one that fails; no match, and two, one or no profile of the model ID. -/
theorem witness_IdentTakesTheFirstMatchElseTheModelId :
    (ready [pC, pA]).asmStatus = .ok ∧ 259 ≤ (unpackGroups 37 payloadF1).length ∧ (∀ p ∈ [pC, pA], p.midiKey ≠ []) ∧
    (ready [pC, pA]).profiles = [pC] ++ pA :: [] ∧
    ck (recData (xorFrom pC.midiKey 0 (unpackGroups 37 payloadF1))) ≠ (xorFrom pC.midiKey 0 (unpackGroups 37 payloadF1)).getD 2 0 ∧
    ck (recData (xorFrom pA.midiKey 0 (unpackGroups 37 payloadF1))) = (xorFrom pA.midiKey 0 (unpackGroups 37 payloadF1)).getD 2 0 ∧
    (∀ q ∈ [pA, pB], ck (recData (xorFrom q.midiKey 0 (rep 0xFF 259))) ≠ (xorFrom q.midiKey 0 (rep 0xFF 259)).getD 2 0) ∧
    ([pA, pB].filter fun q => q.modelId = 0x12).length = 2 ∧ ([pA, pB].filter fun q => q.modelId = 0x11).length = 0 ∧
    ([pA].filter fun q => q.modelId = 0x12) = [pA] := by decide +kernel

theorem witness_AcceptStoresAVerifiedSubBlock :
    inPassA.asmStatus = .ok ∧ inPassA.prof = some pA ∧ pA.midiKey ≠ [] ∧ (0xFEFF : Half) ≠ 0xFF00 ∧ (0xFF01 : Half) ≠ 0xFF00 ∧
    (rep 0 256).length = 256 ∧ (0x42 : Byte) = ck (rep 0 256) ∧ (0x43 : Byte) ≠ ck (rep 0 256) := by decide +kernel

theorem witness_AcceptFilesADisplayMessage :
    inPassA.asmStatus = .ok ∧ inPassA.prof = some pA ∧ pA.midiKey ≠ [] ∧ (rep 0x41 256).length = 256 := by decide +kernel

theorem witness_AcceptRaisesBadLength :
    (ready []).asmStatus = .ok ∧ (rep 0 303).length % 8 ≠ 0 ∧ (rep 0 295).length % 8 ≠ 0 ∧ (rep 0 288).length % 8 = 0 ∧
    (rep 0 288).length < 296 := by simp [ready, State.reset]

theorem witness_UnknownCommandIsSkipped :
    (ready []).asmStatus = .ok ∧ (⟨0, 0, 0x33, []⟩ : Event).command ≠ 0x34 ∧ (⟨0, 0, 0x35, []⟩ : Event).command ≠ 0x34 := by decide

theorem unpack_answers {payload u : Buffer} (h : unpack payload = .value u) (s : State) :
    exec (.unpack payload) s = .next { s with answer := .bytes u } := by
  simp only [exec, execUnpack, h, deliver, State.answered]

theorem ident_answers {u : Buffer} {m : Seven} {s : State} {p : Profile} (hs : s.asmStatus = .ok)
    (h : identify u m s.profiles = .value p) : exec (.asmIdent u m) s = .next { s with answer := .profile p } := by
  simp only [exec, execAsmIdent, whileOk, hs, h, deliver, State.answered]

/-- A registry that knows the key, and an empty one. -/
theorem witness_AcceptIdentifiesOnTheFirstFirmwareEvent :
    (∀ ps, (ready ps).asmStatus = .ok ∧ (ready ps).prof = none ∧ 259 ≤ (unpackGroups 37 payloadF1).length ∧
      exec (.unpack payloadF1) (ready ps) = .next { ready ps with answer := .bytes (unpackGroups 37 payloadF1) }) ∧
    exec (.asmIdent (unpackGroups 37 payloadF1) 0x12) (ready [pA]) = .next { ready [pA] with answer := .profile pA } ∧
    exec (.asmIdent (unpackGroups 37 payloadF1) 0x12) (ready []) =
      .next { ready [] with answer := .raised (.ambiguousProfile 0x12 0) } :=
  ⟨fun _ => ⟨rfl, rfl, by decide +kernel, unpack_answers (by decide +kernel) _⟩,
    ident_answers rfl (by decide +kernel), rfl⟩

theorem witness_RecordFormStoresItsSubBlock :
    inPassA.asmStatus = .ok ∧ inPassA.prof = some pA ∧ pA.midiKey ≠ [] ∧ (0xFEFF : Half) ≠ 0xFF00 ∧ (rep 0 256).length = 256 ∧
    (0x42 : Byte) = ck (rep 0 256) ∧ (0 : Byte) ≠ ck (rep 0 256) ∧ (0 : Nat) ≠ (0xFEFF : Half).toNat := by decide +kernel

/-- Two events of one model ID in a new pass, two of different ones in a pass that has seen a model; two record forms. -/
theorem witness_ArrivalOrderDoesNotMatter :
    inPassA.asmStatus = .ok ∧ Memory.wf inPassA.store ∧ inPassA.prof = some pA ∧ pA.midiKey ≠ [] ∧ busy.asmStatus = .ok ∧
    Memory.wf busy.store ∧ busy.prof = some pA ∧ busy.seenModel ≠ none ∧ (0x07FF : Half) ≠ 0x0800 ∧ (0x07FF : Half) ≠ 0xFF00 ∧
    (0xFEFF : Half) ≠ 0xFF00 ∧ (0x07FF : Half) ≠ 0xFEFF ∧ (rep 0 256).length = 256 := by decide +kernel

/-- Block 0x7F complete, block 0 complete but for its last sub-block; and no block at all. -/
theorem witness_GetBlocksCollectsTheCompleteBlocks :
    faulted.asmStatus = .faulted .checksumMismatch ∧ inPassA.asmStatus = .ok ∧ inPassA.prof = some pA ∧
    Memory.wf ((List.range 15).map (fun j => (j, rep 0 256)) ++ (List.range 16).map fun j => (0x7F0 + j, rep 0 256)) ∧
    (∀ j, j < 16 → Memory.read ((List.range 15).map (fun j => (j, rep 0 256)) ++ (List.range 16).map fun j => (0x7F0 + j, rep 0 256))
      (16 * 0x7F + j) = some (rep 0 256)) ∧
    Memory.read ((List.range 15).map (fun j => (j, rep 0 256)) ++ (List.range 16).map fun j => (0x7F0 + j, rep 0 256)) (16 * 0 + 15) =
      none ∧
    ∀ i, i < 0x80 → ∃ j, j < 16 ∧ inPassA.store.read (16 * i + j) = none :=
  ⟨rfl, rfl, rfl, by decide +kernel, by decide +kernel, by decide +kernel, fun _ _ => ⟨0, by decide, rfl⟩⟩

/-- A complete block, the last of the chip, and no profile; a buffer of 258 bytes. -/
theorem witness_OpenValuesDoNotStopTheRun :
    (ready [pA]).asmStatus = .ok ∧ (ready [pA]).prof = none ∧
    (∀ j, j < 16 → Memory.read ((List.range 16).map fun j => (0x7F0 + j, rep 0 256)) (16 * 0x7F + j) = some (rep 0 256)) ∧
    ∀ p ∈ (ready [pA]).profiles, p.midiKey ≠ [] := ⟨rfl, rfl, by decide +kernel, by decide⟩

theorem witness_FullChipViewFillsWithFF : BlockMap.wf (mapOf [0, 0x7F]) ∧ 0 ≤ 0x7F ∧ 0x7F ≤ 0x7F := by decide +kernel

/-- No block; a run to the end of the range; a run after a gap, ended by a gap. -/
theorem witness_GapSensitiveViewIsTheFirstRun :
    (∀ i, 0 ≤ i → i ≤ 0x7F → lookupKey i [] = none) ∧
    (∀ i, 6 ≤ i → i < 8 → lookupKey i (shortMap [6, 7]) = some [BitVec.ofNat 8 i]) ∧
    (∀ i, 4 ≤ i → i < 5 → lookupKey i (shortMap [5, 7]) = none) ∧
    (∀ i, 5 ≤ i → i < 6 → lookupKey i (shortMap [5, 7]) = some [BitVec.ofNat 8 i]) ∧ lookupKey 6 (shortMap [5, 7]) = none := by
  refine ⟨fun _ _ _ => rfl, fun i h h' => ?_, fun i h h' => ?_, fun i h h' => ?_, by decide⟩ <;> interval_cases i <;> decide

theorem witness_EmptyRangeRendersNothing : (0 : Nat) < 1 ∧ (0 : Nat) < 0x7F := by decide

theorem witness_AppKeyIsRecoveredFromTheBootloader :
    BlockMap.wf (mapOf [0, 1, 2, 3]) ∧ BlockMap.wf (mapOf [0, 1, 2]) ∧
    (∀ i, i < 4 → lookupKey i (mapOf [0, 1, 2, 3]) = some (rep (BitVec.ofNat 8 i) 4096)) ∧
    ∃ i, i < 4 ∧ lookupKey i (mapOf [0, 1, 2]) = none :=
  ⟨by decide +kernel, by decide +kernel, fun i h => by interval_cases i <;> rfl, 3, by decide, rfl⟩

theorem witness_AppdecIsXorkOverTheRawImage : Config.appKeyA ≠ [] ∧ ([] : Buffer) = [] := by decide

theorem witness_EncodeChecksInOrder :
    pA ∉ (ready [pB]).profiles ∧ pA ∈ (ready [pA]).profiles ∧ 0x4001 % 0x1000 ≠ 0 ∧ 0x7F000 % 0x1000 = 0 ∧ pA.appKey ≠ [] ∧
    0x80 < 0x7F000 / 0x1000 + ((rep 0 4097).length + 4095) / 4096 ∧ 0x80 < 0x80000 / 0x1000 + (([0] : Buffer).length + 4095) / 4096 ∧
    0x80 < 0x81000 / 0x1000 + (([] : Buffer).length + 4095) / 4096 := by decide +kernel

/-- The last block of the chip, padded, a message at the final ordinal, a text of 256 and one of 257 bytes. -/
theorem witness_EncodeEmitsSixteenEventsABlock :
    pA ∈ (ready [pA]).profiles ∧ 0x7F000 < 0x80000 ∧ 0x7F000 % 0x1000 = 0 ∧ pA.midiKey ≠ [] ∧ pA.appKey ≠ [] ∧
    1 = (([1, 2, 3] : Buffer).length + 4095) / 4096 ∧ 1 = ((rep 0 4096).length + 4095) / 4096 ∧ 0x7F000 / 0x1000 + 1 ≤ 0x80 ∧
    Texts.wf [(16, rep 0x41 256), (17, rep 0x41 257)] ∧
    (∀ x ∈ [(16, rep 0x41 256), (17, rep 0x41 257)], x.1 ≤ 16 * 1 → x.2.length ≤ 256) ∧ Texts.wf [(16, rep 0x41 257)] ∧
    ∃ x ∈ [(16, rep 0x41 257)], x.1 ≤ 16 * 1 ∧ 256 < x.2.length := by decide +kernel

/-- A rejected buffer; an event of another command; a firmware event that faults. -/
theorem witness_DecodeIsItsExpansion :
    exec (.envDetect [0xF0]) (ready [pA]) = .next { ready [pA] with answer := .verdict false } ∧
    exec (.envDetect [0xF0, 0x00, 0x20, 0x32, 0, 0, 0x33, 0xF7]) (ready [pA]) = .next { ready [pA] with answer := .verdict true } ∧
    (∃ u t as, exec (.envScan [0xF0, 0x00, 0x20, 0x32, 0, 0, 0x33, 0xF7]) (ready [pA]) = .next u ∧
      u.answer = .events [⟨0, 0, 0x33, []⟩] ∧
      execAll [.asmReset, .asmAccept ⟨0, 0, 0x33, []⟩, .asmGetblocks] u = some (t, as) ∧ (0x33 : Seven) ≠ 0x34) ∧
    exec (.envDetect [0xF0, 0x00, 0x20, 0x32, 0, 0, 0x34, 0xF7]) (ready [pA]) = .next { ready [pA] with answer := .verdict true } ∧
    ∃ u t t' as, exec (.envScan [0xF0, 0x00, 0x20, 0x32, 0, 0, 0x34, 0xF7]) (ready [pA]) = .next u ∧
      u.answer = .events ([] ++ ⟨0, 0, 0x34, []⟩ :: []) ∧ execAll (.asmReset :: ([] : List Event).map Instr.asmAccept) u = some (t, as) ∧
      t.asmStatus = .ok ∧ exec (.asmAccept ⟨0, 0, 0x34, []⟩) t = .next t' ∧ t'.answer = .raised (.badLength 0) :=
  ⟨rfl, rfl, ⟨_, _, _, rfl, rfl, rfl, by decide⟩, rfl, ⟨_, _, _, _, rfl, rfl, rfl, rfl, rfl, rfl⟩⟩

/-- The application region with one byte, and the last block of the chip. -/
theorem witness_EncodeThenDecodeGivesTheImageBack :
    (ready [pA, pB]).profiles = pA :: [pB] ∧ pA.wellFormed = true ∧ pA.appStart % 4096 = 0 ∧ 0x7F000 % 4096 = 0 ∧
    0 < ([0] : Buffer).length ∧ 1 = (([0] : Buffer).length + 4095) / 4096 ∧ 0 < (rep 0 4096).length ∧
    1 = ((rep 0 4096).length + 4095) / 4096 ∧ pA.appStart / 4096 + 1 ≤ 0x80 ∧ 0x7F000 / 4096 + 1 ≤ 0x80 := by decide +kernel

/-- Messages at the first and at the final ordinal, one empty, one of 256 bytes. -/
theorem witness_DisplayMessagesAreTransparent :
    (ready [pA, pB]).profiles = pA :: [pB] ∧ pA.wellFormed = true ∧ 0x7F000 % 4096 = 0 ∧ 0 < ([0] : Buffer).length ∧
    1 = (([0] : Buffer).length + 4095) / 4096 ∧ 0x7F000 / 4096 + 1 ≤ 0x80 ∧
    [(0, []), (16, rep 0x41 256)].Pairwise (fun x y : Nat × Buffer => x.1 < y.1) ∧
    ∀ x ∈ ([(0, []), (16, rep 0x41 256)] : Texts), x.1 ≤ 16 * 1 ∧ x.2.length ≤ 256 ∧ (0 : Byte) ∉ x.2 := by decide +kernel

end Sys2Proof.Tests
end

section
/-! What one instruction can do to the machine, said once: the instructions that only answer, the inversion of `exec` and the
registers each shape of effect leaves alone. -/

namespace Sys2Proof.Machine

/-! ## Instructions that only answer -/

/-- Instructions that write no register of the machine. -/
def answersOnly : Instr → Bool
  | .asmPreset _ => false
  | i => !(writesParser i || acceptsEvent i || startsPass i)

/-- The wrapping of a result is part of the computation. -/
theorem deliver_wrapped {α : Type} (c : Calc α) (wrap : α → Answer) (s : State) :
    deliver c wrap s = deliver (c.andThen fun a => .value (wrap a)) id s := by
  cases c <;> rfl

/-- What ends a stateless operation changes the answer only. -/
theorem deliver_answered {α : Type} {c : Calc α} {wrap : α → Answer} {s t : State} (h : deliver c wrap s = .next t) :
    ∃ a, t = s.answered a := by
  rcases deliver_next h with ⟨a, -, rfl⟩ | ⟨r, -, rfl⟩
  · exact ⟨wrap a, rfl⟩
  · exact ⟨.raised r, rfl⟩

theorem faulted_of_ne_ok {s : State} (h : s.asmStatus ≠ .ok) : ∃ k, s.asmStatus = .faulted k := by
  cases hs : s.asmStatus with
  | ok => exact absurd hs h
  | faulted k => exact ⟨k, rfl⟩

/-- A guarded stateless operation is the stateless operation that is refused while FAULTED. -/
theorem whileOk_deliver {α : Type} (c : Calc α) (wrap : α → Answer) (s : State) :
    ∃ d : Calc Answer, ∀ l, whileOk { s with skiplog := l } (deliver c wrap { s with skiplog := l }) =
      deliver d id { s with skiplog := l } := by
  by_cases hs : s.asmStatus = .ok
  · exact ⟨_, fun _ => (whileOk_of_ok hs).trans (deliver_wrapped c wrap _)⟩
  · obtain ⟨k, hk⟩ := faulted_of_ne_ok hs
    exact ⟨.refuse .passFaulted, fun _ => whileOk_of_faulted hk⟩

/-- An instruction that only answers is a stateless operation, whose computation does not depend on the skip log. -/
theorem exec_of_answersOnly {i : Instr} (hi : answersOnly i = true) (s : State) :
    ∃ c : Calc Answer, ∀ l, exec i { s with skiplog := l } = deliver c id { s with skiplog := l } := by
  cases i with
  | pack x => exact ⟨.value (.bytes (pack x)), fun _ => rfl⟩
  | unpack y => exact ⟨_, fun _ => deliver_wrapped (unpack y) .bytes _⟩
  | xork key data => exact ⟨_, fun _ => deliver_wrapped (xork key data) .bytes _⟩
  | csum data => exact ⟨_, fun _ => deliver_wrapped (csum data) .byte _⟩
  | bac base blk => exact ⟨_, fun _ => deliver_wrapped (bac base blk) .bytes _⟩
  | envBuild d m c payload => exact ⟨_, fun _ => deliver_wrapped (buildEvent d m c payload) .bytes _⟩
  | envDetect buf => exact ⟨.value (.verdict (detect buf)), fun _ => rfl⟩
  | sbBuild sub payload => exact ⟨_, fun _ => deliver_wrapped (sbBuild sub payload) .bytes _⟩
  | sbParse r => exact ⟨_, fun _ => deliver_wrapped (sbParse r) (fun f => .record f.sub f.sent f.data) _⟩
  | msgBuild text => exact ⟨_, fun _ => deliver_wrapped (msgBuild text) .bytes _⟩
  | sbWrap p r => exact ⟨_, fun _ => deliver_wrapped (sbWrap p r) .bytes _⟩
  | asmIdent u m => exact whileOk_deliver (identify u m s.profiles) .profile s
  | asmGetblocks => exact whileOk_deliver (.value (getBlocks s.store s.prof)) .blocks s
  | flashview map => exact ⟨.value (.bytes (flashView map)), fun _ => rfl⟩
  | encodeImage p a b m => exact ⟨_, fun _ => deliver_wrapped (encodeStream s.profiles p a b m) .bytes _⟩
  | partSens map first last => exact ⟨.value (.rendering _ _), fun _ => rfl⟩
  | partFill map first last => exact ⟨.value (.bytes (renderFill map (indexRange first last))), fun _ => rfl⟩
  | appkeyRecover map p => exact ⟨.value (.bytes (recoverAppKey map p)), fun _ => rfl⟩
  | partAppdec raw key => exact ⟨_, fun _ => deliver_wrapped (xork key raw) .bytes _⟩
  | grp p0 p1 p2 p3 p4 p5 p6 h => exact ⟨.value (.bytes _), fun _ => rfl⟩
  | _ => exact absurd hi Bool.false_ne_true

/-! ## The inversion of `exec` -/

/-- `Ran s i t`: everything that instruction `i` can make of the state `s` when it goes on to `t`. -/
inductive Ran (s : State) : Instr → State → Prop
  | answered {i} (only : answersOnly i = true) (a : Answer) : Ran s i (s.answered a)
  | envReset : Ran s .envReset ((resetParser s).answered .done)
  | envFeed (b : Byte) (a : Answer) : Ran s (.envFeed b) ((feedByte b s).1.answered a)
  | envEnd : Ran s .envEnd ((endInput s).answered .done)
  | envScan (buf : Buffer) (a : Answer) : Ran s (.envScan buf) ((scan buf s).1.answered a)
  | asmReset : Ran s .asmReset ((resetAssembler s).answered .done)
  | asmPreset (p : Profile) (ok : s.asmStatus = .ok) (free : s.prof = none) :
      Ran s (.asmPreset p) ({ s with prof := some p }.answered .done)
  | accepted {i t} (ev : Event) (accepts : acceptsEvent i = true) (h : accept ev s = .next t) : Ran s i t
  | decodeStream {buf t} (h : decodeBuffer buf s = .next t) : Ran s (.decodeStream buf) t

/-- ASM.PRESET goes on only while the pass is OK and has no profile (R162). -/
theorem execAsmPreset_next {p : Profile} {s t : State} (h : execAsmPreset p s = .next t) :
    s.asmStatus = .ok ∧ s.prof = none ∧ t = { s with prof := some p }.answered .done := by
  obtain ⟨hok, h⟩ := whileOk_next h
  split at h
  · cases h
    exact ⟨hok, ‹_›, rfl⟩
  · cases h

theorem exec_next {i : Instr} {s t : State} (h : exec i s = .next t) : Ran s i t := by
  by_cases hi : answersOnly i = true
  · obtain ⟨c, hc⟩ := exec_of_answersOnly hi s
    obtain ⟨a, rfl⟩ := deliver_answered ((hc s.skiplog).symm.trans h)
    exact .answered hi a
  · cases i with
    | envReset => cases h; exact .envReset
    | envFeed b => cases h; exact .envFeed b _
    | envEnd => cases h; exact .envEnd
    | envScan buf => cases h; exact .envScan buf _
    | asmReset => cases h; exact .asmReset
    | asmPreset p =>
      obtain ⟨hok, hfree, rfl⟩ := execAsmPreset_next h
      exact .asmPreset p hok hfree
    | asmAccept ev => exact .accepted ev rfl h
    | decodeStream buf => exact .decodeStream h
    | evtWriteFlash d m payload => exact .accepted _ rfl h
    | recFlash sub k data =>
      obtain ⟨ev, hev⟩ := acceptRecord_next h
      exact .accepted ev rfl hev
    | recMsg k text =>
      obtain ⟨ev, hev⟩ := acceptRecord_next h
      exact .accepted ev rfl hev
    | _ => exact absurd rfl hi

/-! ## What each shape of effect leaves alone -/

/-- `t` differs from `s` in the registers of U5 and the answer at most. -/
def OnlyParser (s t : State) : Prop := ∃ st acc log a, t = { s with st := st, acc := acc, skiplog := log, answer := a }

/-- `t` differs from `s` in the registers of U6 but the format tag, the skip log and the answer at most. -/
def OnlyAssembler (s t : State) : Prop :=
  ∃ log store prof ord msgs sm status a,
    t = { s with skiplog := log, store := store, prof := prof, ord := ord, msgs := msgs, seenModel := sm, asmStatus := status,
                 answer := a }

theorem OnlyU5.onlyParser {s t : State} (h : OnlyU5 s t) (a : Answer) : OnlyParser s (t.answered a) :=
  ⟨_, _, _, a, (congrArg (State.answered · a) h.1 :)⟩

/-- Filing a record keeps the skip log. -/
theorem Filed.skiplog {s t : State} (h : Filed s t) : t.skiplog = s.skiplog := by
  rcases h with ⟨_, -, rfl⟩ | ⟨_, -, rfl⟩ | ⟨_, _, -, -, rfl⟩ <;> rfl

/-- Filing a record writes U6 only. -/
theorem Filed.onlyAssembler {s t : State} (h : Filed s t) : OnlyAssembler s t := by
  rcases h with ⟨_, -, rfl⟩ | ⟨_, -, rfl⟩ | ⟨_, _, -, -, rfl⟩ <;> exact ⟨_, _, _, _, _, _, _, _, rfl⟩

/-- The acceptance of an event writes U6 and the skip log only. -/
theorem accept_onlyAssembler {ev : Event} {s t : State} (h : accept ev s = .next t) : OnlyAssembler s t := by
  obtain ⟨-, rfl | ⟨sm, -, ⟨r, -, rfl⟩ | ⟨p, -, hf⟩⟩⟩ := accept_next h
  · exact ⟨_, _, _, _, _, _, _, _, rfl⟩
  · exact ⟨_, _, _, _, _, _, _, _, rfl⟩
  · obtain ⟨_, _, _, _, _, _, _, _, rfl⟩ := hf.onlyAssembler
    exact ⟨_, _, _, _, _, _, _, _, rfl⟩

/-- The acceptance of an event only appends to the skip log (R226). -/
theorem accept_skiplog {ev : Event} {s t : State} (h : accept ev s = .next t) : ∃ l, t.skiplog = s.skiplog ++ l := by
  obtain ⟨-, rfl | ⟨sm, -, ⟨r, -, rfl⟩ | ⟨p, -, hf⟩⟩⟩ := accept_next h
  · exact ⟨_, rfl⟩
  · exact ⟨[], by simp⟩
  · exact ⟨[], by simp [hf.skiplog]⟩

theorem scan_onlyParser (buf : Buffer) (s : State) (a : Answer) : OnlyParser s ((scan buf s).1.answered a) :=
  ⟨_, _, _, a, (congrArg (State.answered · a) (scan_frame buf s).1 :)⟩

/-- What DECODE leaves alone: the registry and the queue. -/
theorem decodeBuffer_keeps_config {buf : Buffer} {s t : State} (h : decodeBuffer buf s = .next t) :
    t.profiles = s.profiles ∧ t.pending = s.pending := by
  obtain ⟨-, u, hu, ht⟩ := decodeBuffer_next h
  have hstart : (scan buf s).1.profiles = s.profiles ∧ (scan buf s).1.pending = s.pending := by
    have hscan := (scan_frame buf s).1
    exact ⟨(congrArg State.profiles hscan :), (congrArg State.pending hscan :)⟩
  have hpass : u.profiles = s.profiles ∧ u.pending = s.pending := by
    refine acceptAll_induct (s := resetAssembler (scan buf s).1)
      (P := fun v => v.profiles = s.profiles ∧ v.pending = s.pending) ?_ hstart hu
    intro ev v w hv hw
    obtain ⟨_, _, _, _, _, _, _, _, rfl⟩ := accept_onlyAssembler hw
    exact hv
  rcases ht with ⟨-, rfl⟩ | ⟨-, rfl⟩ <;> exact hpass

/-- The six shapes of effect an instruction can have, by the class of the instruction (R20). -/
theorem exec_shape {i : Instr} {s t : State} (h : exec i s = .next t) :
    (∃ a, t = s.answered a) ∨
    (writesParser i = true ∧ OnlyParser s t) ∨
    (acceptsEvent i = true ∧ s.asmStatus = .ok ∧ OnlyAssembler s t) ∨
    (i = .asmReset ∧ t = (resetAssembler s).answered .done) ∨
    (∃ p, i = .asmPreset p ∧ s.asmStatus = .ok ∧ t = { s with prof := some p }.answered .done) ∨
    ∃ buf, i = .decodeStream buf ∧ t.profiles = s.profiles ∧ t.pending = s.pending := by
  cases exec_next h with
  | answered _ a => exact .inl ⟨a, rfl⟩
  | envReset => exact .inr (.inl ⟨rfl, _, _, _, _, rfl⟩)
  | envFeed b a => exact .inr (.inl ⟨rfl, (feedByte_frame b s).onlyParser a⟩)
  | envEnd => exact .inr (.inl ⟨rfl, (endInput_frame s).onlyParser .done⟩)
  | envScan buf a => exact .inr (.inl ⟨rfl, scan_onlyParser buf s a⟩)
  | accepted ev ha h => exact .inr (.inr (.inl ⟨ha, (accept_next h).1, accept_onlyAssembler h⟩))
  | asmReset => exact .inr (.inr (.inr (.inl ⟨rfl, rfl⟩)))
  | asmPreset p hok hfree => exact .inr (.inr (.inr (.inr (.inl ⟨p, rfl, hok, rfl⟩))))
  | decodeStream h => exact .inr (.inr (.inr (.inr (.inr ⟨_, rfl, decodeBuffer_keeps_config h⟩))))

end Sys2Proof.Machine
end

section
/-! What the decoder answers: only well-formed instructions, and its errors by format. -/

namespace Sys2Proof

/-- Format OP checks every operand (log 20). -/
theorem decodeOp_wellFormed {bytes : Buffer} {operands : List Operand} {i : Instr} (h : decodeOp bytes operands = .ok i) :
    i.wellFormed = true := by
  unfold decodeOp at h
  split at h
  · split at h
    · cases h
    · split at h
      · cases h
      · split at h
        · cases h
          assumption
        · cases h
  · cases h

/-- Format EVT accepts clean payloads only (R71, R153). -/
theorem decodeEvent_wellFormed {bytes : Buffer} {i : Instr} (h : decodeEvent bytes = .ok i) : i.wellFormed = true := by
  unfold decodeEvent at h
  split at h
  · split at h
    · rename_i d m c rest _
      split at h
      · rename_i hclean
        have hpayload : rest.dropLast.all clean = true := by
          simp only [Bool.and_eq_true, List.all_cons] at hclean
          exact hclean.2.2.2.2
        split at h <;> cases h <;> exact hpayload
      · cases h
    · cases h
  · cases h

/-- Format REC accepts 256 data bytes under a legal profile, and names REC.MSG by the number (R72, R80). -/
theorem decodeRecord_wellFormed {bytes : Buffer} {operands : List Operand} {i : Instr}
    (h : decodeRecord bytes operands = .ok i) : i.wellFormed = true := by
  unfold decodeRecord at h
  split at h
  · split at h
    · rename_i hc
      split at h <;> cases h
      · exact hc
      · rename_i hsub
        simpa [Instr.wellFormed, hc] using hsub
    · cases h
  · cases h

theorem decodeGroup_wellFormed {bytes : Buffer} {i : Instr} (h : decodeGroup bytes = .ok i) : i.wellFormed = true := by
  unfold decodeGroup at h
  split at h
  · split at h <;> cases h
    rfl
  · cases h

theorem decode_wellFormed {t : Transaction} {i : Instr} (h : decode t = .ok i) : i.wellFormed = true := by
  unfold decode at h
  split at h
  · exact decodeOp_wellFormed h
  · exact decodeEvent_wellFormed h
  · exact decodeRecord_wellFormed h
  · exact decodeGroup_wellFormed h

/-- Settles O2, one lemma a format. -/
theorem decodedInstructionIsWellFormed : Obligations.DecodedInstructionIsWellFormed :=
  fun _ _ => decode_wellFormed

/-! ## Errors -/

/-- Every code of the table selects an operation (R81). -/
theorem opOfCode_ne_none : ∀ code ∈ opTable.map Prod.fst, opOfCode code ≠ none := by decide

/-- One byte of format OP that selects an operation fails by its operands only. -/
theorem decodeOp_error_of_assigned {code : Byte} {operands : List Operand} {e : DecodeError} (hc : opOfCode code ≠ none)
    (h : decodeOp [code] operands = .error e) : e = .badOperands code := by
  simp only [decodeOp] at h
  split at h
  · exact absurd ‹_› hc
  · split at h
    · cases h; rfl
    · split at h <;> cases h
      rfl

theorem decodeOp_of_length_ne {bytes : Buffer} (operands : List Operand) (hl : bytes.length ≠ 1) :
    decodeOp bytes operands = .error (.noSuchForm .op) := by
  unfold decodeOp
  split
  · exact absurd rfl hl
  · rfl

theorem decodeEvent_error {bytes : Buffer} {e : DecodeError} (h : decodeEvent bytes = .error e) :
    e = .noSuchForm .event := by
  unfold decodeEvent at h
  split at h
  · split at h
    · split at h
      · split at h <;> cases h
      · cases h; rfl
    · cases h; rfl
  · cases h; rfl

theorem decodeRecord_error {bytes : Buffer} {operands : List Operand} {e : DecodeError}
    (h : decodeRecord bytes operands = .error e) : e = .noSuchForm .record := by
  unfold decodeRecord at h
  split at h
  · split at h
    · split at h <;> cases h
    · cases h; rfl
  · cases h; rfl

theorem decodeGroup_error {bytes : Buffer} {e : DecodeError} (h : decodeGroup bytes = .error e) :
    e = .noSuchForm .group := by
  unfold decodeGroup at h
  split at h
  · split at h <;> cases h
    rfl
  · cases h; rfl

/-- But for one byte of format OP, a transaction fails as no form of its format (log 11). -/
theorem decode_error_noSuchForm {t : Transaction} {e : DecodeError} (hop : t.format = .op → t.bytes.length ≠ 1)
    (h : decode t = .error e) : e = .noSuchForm t.format := by
  unfold decode at h
  split at h <;> rename_i hf <;> rw [hf]
  · rw [decodeOp_of_length_ne _ (hop hf)] at h
    cases h; rfl
  · exact decodeEvent_error h
  · exact decodeRecord_error h
  · exact decodeGroup_error h

/-- What decodes to no instruction has an error. -/
theorem decode_error_of_ne_ok {t : Transaction} (h : ∀ i, decode t ≠ .ok i) : ∃ e, decode t = .error e := by
  cases hd : decode t with
  | ok i => exact absurd hd (h i)
  | error e => exact ⟨e, rfl⟩

end Sys2Proof
end

section
/-! One step, by what the next transaction decodes to. -/

namespace Sys2Proof.Machine

theorem fetch_of_pending {s : State} {t : Transaction} {rest : List Transaction} (hp : s.pending = t :: rest) :
    fetch s = some (t, { s with pending := rest }) := by
  simp [fetch, hp]

theorem step_of_idle {s : State} (hp : s.pending = []) : step s = .next s := by
  simp [step, fetch, hp]

theorem step_of_decode_ok {s : State} {t : Transaction} {rest : List Transaction} {i : Instr} (hp : s.pending = t :: rest)
    (hd : decode t = .ok i) : step s = exec i { s with pending := rest } := by
  simp [step, fetch_of_pending hp, hd]

theorem step_of_decode_error {s : State} {t : Transaction} {rest : List Transaction} {e : DecodeError}
    (hp : s.pending = t :: rest) (hd : decode t = .error e) : step s = rejected e := by
  simp [step, fetch_of_pending hp, hd]

/-- Everything a step that goes on can be: the idle one, or a well-formed instruction that goes on. -/
theorem step_next {s t : State} (h : step s = .next t) :
    t = s ∨ ∃ i rest, i.wellFormed = true ∧ exec i { s with pending := rest } = .next t := by
  cases hp : s.pending with
  | nil =>
    rw [step_of_idle hp] at h
    cases h
    exact .inl rfl
  | cons tr rest =>
    cases hd : decode tr with
    | ok i => exact .inr ⟨i, rest, decode_wellFormed hd, step_of_decode_ok hp hd ▸ h⟩
    | error e =>
      rw [step_of_decode_error hp hd] at h
      cases e <;> cases h

/-- Settles O5: the queue's head decides the step; the decoder's error names the stop. -/
theorem stepRunsTheDecodedInstruction : Obligations.StepRunsTheDecodedInstruction := by
  refine ⟨fun s t rest i hp hd => step_of_decode_ok hp hd, fun s hp => step_of_idle hp, ?_, ?_⟩
  · intro s code operands rest hp hcode hno
    obtain ⟨e, he⟩ := decode_error_of_ne_ok hno
    rw [step_of_decode_error hp he, decodeOp_error_of_assigned (opOfCode_ne_none code hcode) he]
    rfl
  · intro s t rest hp hno hop
    obtain ⟨e, he⟩ := decode_error_of_ne_ok hno
    rw [step_of_decode_error hp he, decode_error_noSuchForm hop he]
    rfl

end Sys2Proof.Machine
end

section
/-! The invariant of the machine: the clauses on the parser and on the pass apart, each kept by the operations of its unit, and
the step lemma assembled from them. -/

namespace Sys2Proof.Machine

/-! ## The parser's clauses -/

/-- The clauses of `State.Inv` on U5 (R26, R147, R153). -/
structure ParserOk (s : State) : Prop where
  st_between : s.st ≠ .finalize
  acc_searching : s.st = .searching → s.acc = []
  acc_clean : ∀ b ∈ s.acc, clean b = true

theorem State.Inv.parserOk {s : State} (h : s.Inv) : ParserOk s := ⟨h.st_between, h.acc_searching, h.acc_clean⟩

theorem parserOk_of_acc_nil {s : State} (hst : s.st ≠ .finalize) (hacc : s.acc = []) : ParserOk s :=
  ⟨hst, fun _ => hacc, by simp [hacc]⟩

/-- FINALIZE leaves an empty accumulator, in one of the two states between steps (R143). -/
theorem finalize_parserOk (b : Byte) (s : State) : ParserOk (finalize b s).1 := by
  rcases finalize_cases b s with ⟨d, m, c, p, -, -, h⟩ | ⟨flaw, st', hst, h⟩ <;> rw [h]
  · exact parserOk_of_acc_nil (by simp) rfl
  · refine parserOk_of_acc_nil ?_ rfl
    rcases hst with rfl | rfl <;> simp

theorem feedByte_parserOk (b : Byte) {s : State} (hs : ParserOk s) : ParserOk (feedByte b s).1 := by
  rcases feedByte_cases b s with ⟨-, -, h⟩ | ⟨-, -, h⟩ | ⟨hst, hb, h⟩ | ⟨-, -, h⟩ | ⟨-, h⟩ <;> rw [h]
  · exact parserOk_of_acc_nil (by simp) rfl
  · exact ⟨hs.st_between, hs.acc_searching, hs.acc_clean⟩
  · refine ⟨by simp [hst], by simp [hst], fun x hx => ?_⟩
    rcases List.mem_append.1 hx with hx | hx
    · exact hs.acc_clean x hx
    · rw [List.mem_singleton.1 hx, hb]
  · exact finalize_parserOk b _
  · exact finalize_parserOk b s

theorem endInput_parserOk {s : State} (hs : ParserOk s) : ParserOk (endInput s) := by
  unfold endInput
  split
  · exact parserOk_of_acc_nil (by simp) rfl
  · exact hs

theorem feedAll_parserOk (bs : Buffer) {s : State} (hs : ParserOk s) : ParserOk (feedAll bs s).1 := by
  induction bs generalizing s with
  | nil => exact hs
  | cons b bs ih => exact ih (feedByte_parserOk b hs)

theorem scan_parserOk (buf : Buffer) (s : State) : ParserOk (scan buf s).1 :=
  endInput_parserOk (feedAll_parserOk buf (parserOk_of_acc_nil (by simp) rfl))

/-! ## What keeps the whole invariant -/

/-- The invariant does not speak of the answer. -/
theorem State.Inv.answered {s : State} (h : s.Inv) (a : Answer) : (s.answered a).Inv := { h with }

/-- The invariant does not speak of the skip log. -/
theorem State.Inv.skipped {s : State} (h : s.Inv) (k : Skip) : (s.skipped k).Inv := { h with }

/-- The invariant does not speak of the queue. -/
theorem State.Inv.pending {s : State} (h : s.Inv) (rest : List Transaction) : State.Inv { s with pending := rest } := { h with }

/-- The invariant does not speak of the model ID of the pass. -/
theorem State.Inv.seenModel {s : State} (h : s.Inv) (sm : Option Seven) : State.Inv { s with seenModel := sm } := { h with }

/-- "the CORE only ever produces `sysex`" (R32). -/
theorem State.Inv.formatSysex {s : State} (h : s.Inv) : State.Inv { s with format := .sysex } := { h with format_sysex := rfl }

/-- Writing U5 keeps the invariant if U5 is left as it may stand between two steps. -/
theorem State.Inv.onlyU5 {s t : State} (h : s.Inv) (hframe : OnlyU5 s t) (ht : ParserOk t) : t.Inv := by
  rw [hframe.1]
  exact { h with st_between := ht.st_between, acc_searching := ht.acc_searching, acc_clean := ht.acc_clean }

theorem State.Inv.resetParser {s : State} (h : s.Inv) : (resetParser s).Inv :=
  { h with st_between := by simp, acc_searching := fun _ => rfl, acc_clean := by simp }

theorem State.Inv.scan {s : State} (h : s.Inv) (buf : Buffer) : (scan buf s).1.Inv :=
  h.resetParser.onlyU5 (scan_frame buf s) (scan_parserOk buf s)

/-- A new pass: nothing is stored, filed, counted or selected (R161). -/
theorem State.Inv.resetAssembler {s : State} (h : s.Inv) : (resetAssembler s).Inv :=
  { h with
    store_wf := Memory.reset_wf
    store_no_messages := rfl
    unselected := fun _ => ⟨rfl, rfl, rfl⟩
    store_le_ord := Nat.le_refl 0
    msgs_text := by simp
    msgs_order := by simp
    status_kind := by simp
    prof_wf := by simp }

/-- Selecting a legal profile. -/
theorem State.Inv.select {s : State} (h : s.Inv) {p : Profile} (hp : p.wellFormed = true) :
    State.Inv { s with prof := some p } :=
  { h with
    unselected := by simp
    prof_wf := by simpa using hp }

/-! ## Filing a record -/

/-- A fault of the pass records its kind only (R231). -/
theorem State.Inv.takeFault {s : State} (h : s.Inv) {r : Raised} (hr : inPass r) : (takeFault true r s).Inv :=
  { h with
    status_kind := fun k hk => by
      obtain rfl : r.kind = k := AsmStatus.faulted.inj hk
      exact hr }

/-- A message comes last, under the present ordinal (R31, R164). -/
theorem State.Inv.fileMessage {s : State} (h : s.Inv) (hsel : s.prof ≠ none) {data : Buffer} (hd : data.length ≤ 256) :
    State.Inv { s with msgs := s.msgs ++ [(s.ord, textOf data)] } := by
  obtain ⟨hlen, hzero⟩ := textOf_spec data
  obtain ⟨horder, hord⟩ := h.msgs_order
  refine { h with unselected := fun hn => absurd hn hsel, msgs_text := fun m hm => ?_, msgs_order := ⟨?_, fun m hm => ?_⟩ }
  · rcases List.mem_append.1 hm with hm | hm
    · exact h.msgs_text m hm
    · rw [List.mem_singleton.1 hm]
      exact ⟨hlen.trans hd, hzero⟩
  · exact List.pairwise_append.2 ⟨horder, List.pairwise_singleton _ _, fun x hx y hy => by
      rw [List.mem_singleton.1 hy]
      exact hord x hx⟩
  · rcases List.mem_append.1 hm with hm | hm
    · exact hord m hm
    · rw [List.mem_singleton.1 hm]

/-- A flash sub-block is counted, and its key is not the reserved one (R30, R50, R86). -/
theorem State.Inv.fileFlash {s : State} (h : s.Inv) (hsel : s.prof ≠ none) {sub : Half} {data : Buffer}
    (hsub : sub ≠ Config.msgSub) (hd : data.length = 256) :
    State.Inv { s with store := s.store.write sub.toNat data, ord := s.ord + 1 } := by
  obtain ⟨horder, hord⟩ := h.msgs_order
  have hkey : 0xFF00 ≠ sub.toNat := fun he => hsub (BitVec.eq_of_toNat_eq he.symm)
  have hcount := Memory.length_write s.store sub.toNat data
  have hbefore := h.store_le_ord
  exact
    { h with
      store_wf := Memory.write_wf h.store_wf sub.isLt hd
      store_no_messages := by
        simpa only [Memory.present, Memory.read_write_other _ _ hkey] using h.store_no_messages
      unselected := fun hn => absurd hn hsel
      store_le_ord := by dsimp only; omega
      msgs_order := ⟨horder, fun m hm => Nat.le_succ_of_le (hord m hm)⟩ }

theorem State.Inv.filed {s t : State} (h : s.Inv) (hsel : s.prof ≠ none) (hf : Filed s t) : t.Inv := by
  rcases hf with ⟨r, hr, rfl⟩ | ⟨data, hd, rfl⟩ | ⟨sub, data, hsub, hd, rfl⟩
  · exact h.takeFault hr
  · exact (h.fileMessage hsel hd).answered _
  · exact (h.fileFlash hsel hsub hd).answered _

/-! ## The pass -/

theorem State.Inv.accept {ev : Event} {s t : State} (h : s.Inv) (ha : accept ev s = .next t) : t.Inv := by
  obtain ⟨-, rfl | ⟨sm, -, ⟨r, hr, rfl⟩ | ⟨p, hp, hf⟩⟩⟩ := accept_next ha
  · exact (h.skipped _).answered _
  · exact (h.seenModel sm).takeFault hr
  · have hwf : p.wellFormed = true := by
      rcases hp with hp | ⟨-, hp⟩
      · exact h.prof_wf p hp
      · exact h.registry_wf p hp
    exact ((h.seenModel sm).select hwf).filed (by simp) hf

theorem State.Inv.decodeBuffer {buf : Buffer} {s t : State} (h : s.Inv) (hd : decodeBuffer buf s = .next t) : t.Inv := by
  obtain ⟨-, u, hu, ht⟩ := decodeBuffer_next hd
  have hpass : u.Inv := acceptAll_induct (fun _ _ _ => State.Inv.accept) (h.scan buf).resetAssembler hu
  rcases ht with ⟨-, rfl⟩ | ⟨-, rfl⟩
  · exact hpass.formatSysex.answered _
  · exact hpass

theorem exec_keeps_inv {i : Instr} {s t : State} (hi : i.wellFormed = true) (h : s.Inv) (he : exec i s = .next t) : t.Inv := by
  cases exec_next he with
  | answered _ a => exact h.answered a
  | envReset => exact h.resetParser.answered _
  | envFeed b a => exact (h.onlyU5 (feedByte_frame b s) (feedByte_parserOk b h.parserOk)).answered a
  | envEnd => exact (h.onlyU5 (endInput_frame s) (endInput_parserOk h.parserOk)).answered _
  | envScan buf a => exact (h.scan buf).answered a
  | asmReset => exact h.resetAssembler.answered _
  | asmPreset p _ _ => exact (h.select hi).answered _
  | accepted ev _ ha => exact h.accept ha
  | decodeStream hd => exact h.decodeBuffer hd

/-- Settles O8: a step is idle or runs a well-formed instruction, and `exec_keeps_inv` says what each kind of them keeps. -/
theorem everyStepKeepsTheInvariant : Obligations.EveryStepKeepsTheInvariant := by
  intro s t h hstep
  rcases step_next hstep with rfl | ⟨i, rest, hi, he⟩
  · exact h
  · exact exec_keeps_inv hi (h.pending rest) he

/-- Settles O7. -/
theorem resetSatisfiesTheInvariant : Obligations.ResetSatisfiesTheInvariant where
  st_between := by decide
  acc_searching _ := rfl
  acc_clean := by simp [State.reset]
  store_wf := Memory.reset_wf
  store_no_messages := rfl
  unselected _ := ⟨rfl, rfl, rfl⟩
  store_le_ord := Nat.le_refl 0
  msgs_text := by simp [State.reset]
  msgs_order := by simp [State.reset]
  status_kind := by simp [State.reset]
  format_sysex := rfl
  registry_wf := by simp [State.reset]
  prof_wf := by simp [State.reset]

end Sys2Proof.Machine
end

section
/-! The frame of the whole machine: which instructions write which register, and what a FAULTED pass keeps. -/

namespace Sys2Proof.Machine

/-- Settles O9: only an acceptance or a preset could write the pass, and both go on only while the status is OK. -/
theorem faultedStaysUntilAsmReset : Obligations.FaultedStaysUntilAsmReset := by
  intro i s t k hk hi he
  have hne : s.asmStatus ≠ .ok := by simp [hk]
  rcases exec_shape he with ⟨a, rfl⟩ | ⟨-, _, _, _, _, rfl⟩ | ⟨-, hok, -⟩ | ⟨rfl, -⟩ | ⟨p, -, hok, -⟩ | ⟨buf, rfl, -⟩
  · exact ⟨hk, rfl, rfl, rfl, rfl, rfl⟩
  · exact ⟨hk, rfl, rfl, rfl, rfl, rfl⟩
  · exact absurd hok hne
  · cases hi
  · exact absurd hok hne
  · cases hi

/-- The registry and the queue have no writer; U5 is written by the instructions of `writesParser` (R26). -/
theorem exec_keeps_config_parser {i : Instr} {s t : State} (he : exec i s = .next t) :
    t.profiles = s.profiles ∧ t.pending = s.pending ∧ (writesParser i = false → t.st = s.st ∧ t.acc = s.acc) := by
  rcases exec_shape he with ⟨a, rfl⟩ | ⟨hw, _, _, _, _, rfl⟩ | ⟨-, -, _, _, _, _, _, _, _, _, rfl⟩ | ⟨rfl, rfl⟩ |
    ⟨p, rfl, -, rfl⟩ | ⟨buf, rfl, hprofiles, hpending⟩
  · exact ⟨rfl, rfl, fun _ => ⟨rfl, rfl⟩⟩
  · exact ⟨rfl, rfl, by simp [hw]⟩
  · exact ⟨rfl, rfl, fun _ => ⟨rfl, rfl⟩⟩
  · exact ⟨rfl, rfl, fun _ => ⟨rfl, rfl⟩⟩
  · exact ⟨rfl, rfl, fun _ => ⟨rfl, rfl⟩⟩
  · exact ⟨hprofiles, hpending, by simp [writesParser]⟩

/-- The skip log is written by the parser and by the acceptance of an event (R27). -/
theorem exec_keeps_skiplog {i : Instr} {s t : State} (hw : writesParser i = false) (ha : acceptsEvent i = false)
    (he : exec i s = .next t) : t.skiplog = s.skiplog := by
  rcases exec_shape he with ⟨a, rfl⟩ | ⟨hw', -⟩ | ⟨ha', -⟩ | ⟨rfl, rfl⟩ | ⟨p, rfl, -, rfl⟩ | ⟨buf, rfl, -⟩
  · rfl
  · simp [hw] at hw'
  · simp [ha] at ha'
  · rfl
  · rfl
  · simp [writesParser] at hw

/-- The registers of a pass are written by the acceptance of an event and the start of a pass, its profile also by ASM.PRESET
(R28 to R33, R50). -/
theorem exec_keeps_pass {i : Instr} {s t : State} (hp : startsPass i = false) (ha : acceptsEvent i = false)
    (he : exec i s = .next t) :
    t.ord = s.ord ∧ t.store = s.store ∧ t.msgs = s.msgs ∧ t.seenModel = s.seenModel ∧ t.asmStatus = s.asmStatus ∧
      ((∀ p, i ≠ .asmPreset p) → t.prof = s.prof) := by
  rcases exec_shape he with ⟨a, rfl⟩ | ⟨-, _, _, _, _, rfl⟩ | ⟨ha', -⟩ | ⟨rfl, -⟩ | ⟨p, rfl, -, rfl⟩ | ⟨buf, rfl, -⟩
  · exact ⟨rfl, rfl, rfl, rfl, rfl, fun _ => rfl⟩
  · exact ⟨rfl, rfl, rfl, rfl, rfl, fun _ => rfl⟩
  · simp [ha] at ha'
  · simp [startsPass] at hp
  · exact ⟨rfl, rfl, rfl, rfl, rfl, fun hi => absurd rfl (hi p)⟩
  · simp [startsPass] at hp

/-- The format tag is written by DECODE only (R32). -/
theorem exec_keeps_format {i : Instr} {s t : State} (hi : ∀ buf, i ≠ .decodeStream buf) (he : exec i s = .next t) :
    t.format = s.format := by
  rcases exec_shape he with ⟨a, rfl⟩ | ⟨-, _, _, _, _, rfl⟩ | ⟨-, -, _, _, _, _, _, _, _, _, rfl⟩ | ⟨rfl, rfl⟩ |
    ⟨p, rfl, -, rfl⟩ | ⟨buf, rfl, -⟩
  · rfl
  · rfl
  · rfl
  · rfl
  · rfl
  · exact absurd rfl (hi buf)

/-- Settles O11: one frame lemma a group of registers, and the wire forms as the acceptance of the event they carry. -/
theorem eachRegisterHasItsWriters : Obligations.EachRegisterHasItsWriters := by
  refine ⟨fun i s t he => ?_, fun s => ⟨fun _ _ _ => rfl, ?_, ?_⟩⟩
  · obtain ⟨hprofiles, hpending, hparser⟩ := exec_keeps_config_parser he
    refine ⟨hprofiles, hpending, hparser, fun hw ha => exec_keeps_skiplog hw ha he, fun hp ha => ?_, fun hp ha => ?_,
      fun hi => exec_keeps_format hi he⟩
    · obtain ⟨hord, hstore, hmsgs, hseen, hstatus, -⟩ := exec_keeps_pass hp ha he
      exact ⟨hord, hstore, fun _ _ => by rw [hstore], hmsgs, hseen, hstatus⟩
    · obtain ⟨-, -, -, -, -, hprof⟩ := exec_keeps_pass hp ha he
      exact hprof
  · exact fun p sub k data hk => acceptRecord_of_key hk (recordBytesOf sub k data) s
  · exact fun p k text hk => acceptRecord_of_key hk (recordBytesOf Config.msgSub k text) s

end Sys2Proof.Machine
end

section
/-! Noninterference of the skip log (R226): no operation's course depends on it, and it only grows outside the three that clear
it. -/

namespace Sys2Proof.Machine

theorem sameButLog_refl (o : Outcome) : sameButLog o o := by
  cases o <;> rfl

/-- Two guarded operations agree up to the log if their bodies do: the guard reads the status only. -/
theorem whileOk_sameButLog {f g : Outcome} {s : State} (l : List Skip) (h : sameButLog f g) :
    sameButLog (whileOk s f) (whileOk { s with skiplog := l } g) := by
  by_cases hs : s.asmStatus = .ok
  · rwa [whileOk_of_ok hs, whileOk_of_ok (s := { s with skiplog := l }) hs]
  · obtain ⟨k, hk⟩ := faulted_of_ne_ok hs
    rw [whileOk_of_faulted hk, whileOk_of_faulted (s := { s with skiplog := l }) hk]
    rfl

theorem deliver_sameButLog {α : Type} (c : Calc α) (wrap : α → Answer) (s : State) (l : List Skip) :
    sameButLog (deliver c wrap s) (deliver c wrap { s with skiplog := l }) := by
  cases c <;> rfl

theorem answersOnly_sameButLog {i : Instr} (hi : answersOnly i = true) (s : State) (l : List Skip) :
    sameButLog (exec i s) (exec i { s with skiplog := l }) := by
  obtain ⟨c, hc⟩ := exec_of_answersOnly hi s
  have hs : exec i s = deliver c id s := hc s.skiplog
  rw [hs, hc l]
  exact deliver_sameButLog c id s l

/-! ## The parser -/

/-- A state and the event returned, up to the log. -/
def upToLog (r : State × Option Event) : State × Option Event := ({ r.1 with skiplog := [] }, r.2)

theorem header_upToLog (body : Buffer) (s : State) (l : List Skip) :
    upToLog (header body s) = upToLog (header body { s with skiplog := l }) := by
  unfold header
  split
  · split <;> rfl
  · rfl

theorem finalize_upToLog (b : Byte) (s : State) (l : List Skip) :
    upToLog (finalize b s) = upToLog (finalize b { s with skiplog := l }) := by
  unfold finalize
  split
  · exact header_upToLog s.acc { s with st := .searching, acc := [] } l
  · rfl

theorem feedByte_upToLog (b : Byte) (s : State) (l : List Skip) :
    upToLog (feedByte b s) = upToLog (feedByte b { s with skiplog := l }) := by
  unfold feedByte
  dsimp only
  split
  case h_1 => split <;> rfl
  case h_2 =>
    split
    · rfl
    · exact finalize_upToLog b { s with st := .finalize } l
  case h_3 => exact finalize_upToLog b s l

theorem endInput_upToLog (s : State) (l : List Skip) :
    { endInput s with skiplog := [] } = { endInput { s with skiplog := l } with skiplog := [] } := by
  unfold endInput
  dsimp only
  split <;> rfl

/-! ## The acceptance of an event -/

theorem fileRecord_sameButLog (r : Buffer) (s : State) (l : List Skip) :
    sameButLog (fileRecord r s) (fileRecord r { s with skiplog := l }) := by
  unfold fileRecord
  split
  · split
    · rfl
    · unfold fileFlash
      split <;> rfl
  · rfl
  · rfl

theorem acceptUnpacked_sameButLog (u : Buffer) (m : Seven) (s : State) (l : List Skip) :
    sameButLog (acceptUnpacked u m s) (acceptUnpacked u m { s with skiplog := l }) := by
  have hp : passProfile u m { s with skiplog := l } = passProfile u m s := rfl
  unfold acceptUnpacked
  rw [hp]
  split
  · rfl
  · rfl
  · split
    · exact fileRecord_sameButLog _ { s with prof := _ } l
    · rfl
    · rfl

theorem acceptFirmware_sameButLog (m : Seven) (payload : Buffer) (s : State) (l : List Skip) :
    sameButLog (acceptFirmware m payload s) (acceptFirmware m payload { s with skiplog := l }) := by
  unfold acceptFirmware
  split
  · rfl
  · rfl
  · split
    · rfl
    · exact acceptUnpacked_sameButLog _ m (noteModel m s) l

theorem accept_sameButLog (ev : Event) (s : State) (l : List Skip) :
    sameButLog (accept ev s) (accept ev { s with skiplog := l }) := by
  refine whileOk_sameButLog l ?_
  split
  · exact acceptFirmware_sameButLog ev.modelId ev.payload s l
  · rfl

theorem acceptRecord_sameButLog (p : Profile) (r : Buffer) (s : State) (l : List Skip) :
    sameButLog (acceptRecord p r s) (acceptRecord p r { s with skiplog := l }) := by
  refine whileOk_sameButLog l ?_
  split
  · exact accept_sameButLog _ s l
  · rfl
  · rfl

/-! ## Every instruction -/

theorem exec_sameButLog (i : Instr) (s : State) (l : List Skip) :
    sameButLog (exec i s) (exec i { s with skiplog := l }) := by
  by_cases hi : answersOnly i = true
  · exact answersOnly_sameButLog hi s l
  · cases i with
    | envReset => rfl
    | envFeed b => exact (congrArg (fun r => r.1.answered (.event r.2)) (feedByte_upToLog b s l) :)
    | envEnd => exact (congrArg (State.answered · .done) (endInput_upToLog s l) :)
    | envScan buf => exact sameButLog_refl (exec (.envScan buf) s)
    | asmReset => rfl
    | asmPreset p =>
      refine whileOk_sameButLog l ?_
      dsimp only
      split <;> rfl
    | asmAccept ev => exact accept_sameButLog ev s l
    | decodeStream buf => exact sameButLog_refl (exec (.decodeStream buf) s)
    | evtWriteFlash d m payload => exact accept_sameButLog _ s l
    | recFlash sub k data => exact acceptRecord_sameButLog _ _ s l
    | recMsg k text => exact acceptRecord_sameButLog _ _ s l
    | _ => exact absurd rfl hi

/-- But for the instructions that clear it first, the log only grows. -/
theorem exec_skiplog_grows {i : Instr} {s t : State} (hi : clearsLog i = false) (he : exec i s = .next t) :
    ∃ l, t.skiplog = s.skiplog ++ l := by
  cases exec_next he with
  | answered _ a => exact ⟨[], by simp⟩
  | envReset => simp [clearsLog] at hi
  | envFeed b a => exact (feedByte_frame b s).2
  | envEnd => exact (endInput_frame s).2
  | envScan buf a => simp [clearsLog] at hi
  | asmReset => exact ⟨[], by simp⟩
  | asmPreset p _ _ => exact ⟨[], by simp⟩
  | accepted ev _ ha => exact accept_skiplog ha
  | decodeStream _ => simp [clearsLog] at hi

/-- Settles O13. -/
theorem nothingReadsTheSkipLog : Obligations.NothingReadsTheSkipLog :=
  ⟨exec_sameButLog, fun _ _ _ => exec_skiplog_grows⟩

end Sys2Proof.Machine
end

section
/-! The round trips of the packer (R103) and of the XOR cipher (R111), and what a record carried in a payload gives back. -/

namespace Sys2Proof.Machine

/-! ## The packer -/

/-- Bit `6-i` of `H` is the top bit of byte `i` (R53, R100). -/
theorem highBits_getLsbD (b : Nat → Byte) {i : Nat} (hi : i < 7) : (highBits b).getLsbD (6 - i) = (b i).getLsbD 7 := by
  interval_cases i <;> simp [highBits]

/-- The constant 0x80 has bit 7 only. -/
theorem topBit_getLsbD {j : Nat} (hj : j < 8) : (0x80 : Byte).getLsbD j = decide (j = 7) := by
  interval_cases j <;> rfl

/-- The constant 0x7F has every bit but bit 7. -/
theorem lowBits_getLsbD {j : Nat} (hj : j < 8) : (0x7F : Byte).getLsbD j = decide (j ≠ 7) := by
  interval_cases j <;> rfl

/-- UNPACK takes the low seven bits from the packed byte and the top bit from `H` (R101). -/
theorem unpackByte_packGroup (c : Buffer) {i : Nat} (hi : i < 7) : unpackByte (packGroup c) i = c.getD i 0 := by
  have hlow : (packGroup c).getD i 0 = low7 (c.getD i 0) := by interval_cases i <;> rfl
  have hhigh : (packGroup c).getD 7 0 = highBits fun j => c.getD j 0 := rfl
  have htop := highBits_getLsbD (fun j => c.getD j 0) hi
  rw [unpackByte, hlow, hhigh, low7]
  apply BitVec.eq_of_getLsbD_eq
  intro j hj
  rw [BitVec.getLsbD_or, BitVec.getLsbD_and, BitVec.getLsbD_and, BitVec.getLsbD_shiftLeft, topBit_getLsbD hj,
    lowBits_getLsbD hj]
  by_cases h7 : j = 7
  · subst h7
    have hindex : 7 - (i + 1) = 6 - i := by omega
    have hshift : ¬ 7 < i + 1 := by omega
    rw [hindex, htop]
    simp [hshift]
  · simp [h7]

/-- A group gives its bytes back, and zeros for the ones it lacked. -/
theorem unpackGroup_packGroup {c : Buffer} (hc : c.length ≤ 7) :
    unpackGroup (packGroup c) = c ++ rep 0 (7 - c.length) := by
  refine List.ext_getElem (by simp; omega) fun i hi hi' => ?_
  have hbyte : (unpackGroup (packGroup c))[i] = unpackByte (packGroup c) i := by
    rw [unpackGroup_length] at hi
    interval_cases i <;> rfl
  rw [hbyte, unpackByte_packGroup c hi, List.getElem_append]
  split
  · simp [*]
  · simp_all

/-- Enough groups give the buffer back, and zeros for what the groups hold beyond it. -/
theorem unpackGroups_packGroups {n : Nat} {x : Buffer} (hx : x.length ≤ 7 * n) :
    unpackGroups n (packGroups n x) = x ++ rep 0 (7 * n - x.length) := by
  induction n generalizing x with
  | zero => simp_all [unpackGroups]
  | succ n ih =>
    have hdrop : (x.drop 7).length ≤ 7 * n := by rw [List.length_drop]; omega
    have htake : (x.take 7).length ≤ 7 := by rw [List.length_take]; omega
    have hfirst : (packGroups (n + 1) x).take 8 = packGroup (x.take 7) := rfl
    have hrest : (packGroups (n + 1) x).drop 8 = packGroups n (x.drop 7) := rfl
    rw [unpackGroups, hfirst, hrest, unpackGroup_packGroup htake, ih hdrop]
    by_cases hlong : 7 ≤ x.length
    · have hfull : 7 - (x.take 7).length = 0 := by rw [List.length_take]; omega
      have hpad : 7 * n - (x.drop 7).length = 7 * (n + 1) - x.length := by rw [List.length_drop]; omega
      rw [hfull, hpad, rep, List.replicate_zero, List.append_nil, ← List.append_assoc, List.take_append_drop]
    · have hzeros : 7 - x.length + 7 * n = 7 * (n + 1) - x.length := by omega
      rw [List.take_of_length_le (by omega), List.drop_of_length_le (by omega), List.append_assoc, List.nil_append,
        List.length_nil, Nat.sub_zero, List.replicate_append_replicate, hzeros]

/-- `UNPACK(PACK(x))` is `x` and the zeros of its padding (R103). -/
theorem unpack_pack (x : Buffer) : unpack (pack x) = .value (x ++ rep 0 (7 * ((x.length + 6) / 7) - x.length)) := by
  rw [unpack_of_dvd (by rw [pack_length]; omega), pack_length, Nat.mul_div_cancel_left _ (by omega), pack,
    unpackGroups_packGroups (by omega)]

/-! ## The XOR cipher -/

/-- The key goes on where the first part ended (R110). -/
theorem xorFrom_append (k : Buffer) (i : Nat) (x y : Buffer) :
    xorFrom k i (x ++ y) = xorFrom k i x ++ xorFrom k (i + x.length) y := by
  induction x generalizing i with
  | nil => rfl
  | cons d ds ih =>
    have hnext : i + 1 + ds.length = i + (d :: ds).length := by rw [List.length_cons]; omega
    rw [List.cons_append, xorFrom, ih, hnext, xorFrom, List.cons_append]

/-- The cipher is its own inverse, from every key position (R111). -/
theorem xorFrom_xorFrom (k : Buffer) (i : Nat) (x : Buffer) : xorFrom k i (xorFrom k i x) = x := by
  induction x generalizing i with
  | nil => rfl
  | cons d ds ih => rw [xorFrom, xorFrom, ih, BitVec.xor_assoc, BitVec.xor_self, BitVec.xor_zero]

/-- Bytes after the enciphered ones do not disturb their deciphering (R110, R111). -/
theorem xorFrom_xorFrom_append (k x y : Buffer) : xorFrom k 0 (xorFrom k 0 x ++ y) = x ++ xorFrom k x.length y := by
  rw [xorFrom_append, xorFrom_xorFrom, xorFrom_length, Nat.zero_add]

/-! ## Records -/

/-- The fields of a built record, whatever follows its 256 data bytes (R160). -/
theorem sbParse_recordBytesOf (sub : Half) (k : Byte) {data : Buffer} (hd : data.length = 256) (tail : Buffer) :
    sbParse (recordBytesOf sub k data ++ tail) = .value ⟨sub, k, data⟩ := by
  have hcons : recordBytesOf sub k data ++ tail = recordBytesOf sub k (data ++ tail) := List.append_assoc _ _ _
  have hdata : recData (recordBytesOf sub k (data ++ tail)) = data := by
    simp [recData, slice, recordBytesOf, ← hd]
  rw [hcons, sbParse, if_pos (by simp [hd]), recNumber_recordBytesOf, recChecksum_recordBytesOf, hdata]

/-- A built record under a flash number is filed as a flash sub-block, whatever follows it (R80, R163). -/
theorem fileRecord_flash {sub : Half} (hsub : sub ≠ Config.msgSub) (k : Byte) {data : Buffer} (hd : data.length = 256)
    (tail : Buffer) (s : State) : fileRecord (recordBytesOf sub k data ++ tail) s = fileFlash sub k data s := by
  rw [fileRecord, sbParse_recordBytesOf sub k hd tail]
  exact if_neg hsub

/-! ## The acceptance of a carried record -/

/-- A payload that carries a record unpacks and deciphers to the record, with some bytes after it (R72, R103, R111). -/
theorem unpack_payloadOf (key r : Buffer) :
    ∃ u tail, unpack (payloadOf key r) = .value u ∧ r.length ≤ u.length ∧ xorFrom key 0 u = r ++ tail :=
  ⟨_, _, unpack_pack (xorFrom key 0 r), by simp, xorFrom_xorFrom_append key r _⟩

/-- The acceptance of an event that carries a record under the profile of the pass files that record, once `seen_model` has been
noted (R163). -/
theorem accept_payloadOf {s : State} {p : Profile} (hs : s.asmStatus = .ok) (hp : s.prof = some p) (hk : p.midiKey ≠ [])
    {r : Buffer} (hr : 259 ≤ r.length) (d m : Seven) :
    ∃ tail, accept ⟨d, m, Config.cmdWriteFlash, payloadOf p.midiKey r⟩ s = fileRecord (r ++ tail) (noteModel m s) := by
  obtain ⟨u, tail, hu, hlen, hxor⟩ := unpack_payloadOf p.midiKey r
  have hprofile : passProfile u m (noteModel m s) = .value p := by rw [passProfile, noteModel_prof, hp]
  have hkept : { noteModel m s with prof := some p } = noteModel m s := by rw [← hp]; rfl
  refine ⟨tail, ?_⟩
  rw [accept, whileOk_of_ok hs, if_pos rfl, acceptFirmware, hu]
  dsimp only
  rw [if_neg (by omega), acceptUnpacked, hprofile]
  dsimp only
  rw [xork_of_ne hk, hxor, hkept]

end Sys2Proof.Machine
end

section
/-! The order of arrival of two sub-blocks (R61, R171): the writes of the store and the notes of `seen_model` commute. -/

namespace Sys2Proof.Machine

/-! ## What commutes -/

/-- A write of a key past the first one leaves the first entry where it is. -/
theorem Memory.write_cons_of_lt {k sub : Nat} (h : k < sub) (v data : Buffer) (m : Memory) :
    Memory.write ((k, v) :: m) sub data = (k, v) :: m.write sub data := by
  rw [Memory.write, if_neg (by omega), if_neg (by omega)]

/-- Writes of different keys commute (R50): past the first entry by induction, else one of them goes before or onto it. -/
theorem Memory.write_comm (m : Memory) {a b : Nat} (hab : a ≠ b) (x y : Buffer) :
    (m.write a x).write b y = (m.write b y).write a x := by
  induction m with
  | nil => grind [Memory.write]
  | cons c m ih =>
    obtain ⟨k, v⟩ := c
    by_cases hpast : k < a ∧ k < b
    · rw [write_cons_of_lt hpast.1, write_cons_of_lt hpast.2, write_cons_of_lt hpast.2, write_cons_of_lt hpast.1, ih]
    · grind [Memory.write]

/-- Two model IDs are noted in either order, if they are the same or one has been seen before (R32). -/
theorem noteModel_comm {s : State} {m m' : Seven} (h : m = m' ∨ s.seenModel ≠ none) :
    noteModel m' (noteModel m s) = noteModel m (noteModel m' s) := by
  rcases h with rfl | h
  · rfl
  · obtain ⟨m₀, hm₀⟩ := Option.ne_none_iff_exists'.1 h
    simp only [noteModel, hm₀]

/-! ## One verified sub-block -/

/-- The state after a verified sub-block `sub` has been stored by an event of model ID `m` (R163 step 5). -/
def State.storedFlash (m : Seven) (sub : Half) (data : Buffer) (s : State) : State :=
  { noteModel m s with store := s.store.write sub.toNat data, ord := s.ord + 1, answer := .done }

@[simp] theorem storedFlash_asmStatus (m : Seven) (sub : Half) (data : Buffer) (s : State) :
    (s.storedFlash m sub data).asmStatus = s.asmStatus := rfl
@[simp] theorem storedFlash_prof (m : Seven) (sub : Half) (data : Buffer) (s : State) :
    (s.storedFlash m sub data).prof = s.prof := rfl
@[simp] theorem storedFlash_answer (m : Seven) (sub : Half) (data : Buffer) (s : State) :
    (s.storedFlash m sub data).answer = .done := rfl

/-- Two sub-blocks of different numbers are stored in either order (R61, R171). -/
theorem storedFlash_comm {s : State} {m m' : Seven} {a b : Half} (hm : m = m' ∨ s.seenModel ≠ none) (hab : a ≠ b)
    (x y : Buffer) : (s.storedFlash m a x).storedFlash m' b y = (s.storedFlash m' b y).storedFlash m a x := by
  have hkeys : a.toNat ≠ b.toNat := fun h => hab (BitVec.eq_of_toNat_eq h)
  have hstore := Memory.write_comm s.store hkeys x y
  have hnote := noteModel_comm hm
  calc (s.storedFlash m a x).storedFlash m' b y
      = { noteModel m' (noteModel m s) with
          store := (s.store.write a.toNat x).write b.toNat y, ord := s.ord + 2, answer := .done } := rfl
    _ = { noteModel m (noteModel m' s) with
          store := (s.store.write b.toNat y).write a.toNat x, ord := s.ord + 2, answer := .done } := by rw [hnote, hstore]
    _ = (s.storedFlash m' b y).storedFlash m a x := rfl

/-- `Stores p i m sub data`: in a pass under profile `p`, instruction `i` stores `data` under `sub` for an event of model ID `m`. -/
def Stores (p : Profile) (i : Instr) (m : Seven) (sub : Half) (data : Buffer) : Prop :=
  ∀ s : State, s.asmStatus = .ok → s.prof = some p → exec i s = .next (s.storedFlash m sub data)

/-- A good flash event, with bytes after its record (R163 step 5). -/
theorem stores_asmAccept {p : Profile} (hk : p.midiKey ≠ []) (d m : Seven) {sub : Half} (hsub : sub ≠ 0xFF00) {data : Buffer}
    (hd : data.length = 256) (extra : Buffer) :
    Stores p (.asmAccept ⟨d, m, 0x34, payloadOf p.midiKey (recordBytesOf sub (ck data) data ++ extra)⟩) m sub data := by
  intro s hs hp
  have hlen : 259 ≤ (recordBytesOf sub (ck data) data ++ extra).length := by simp [hd]
  obtain ⟨tail, htail⟩ := accept_payloadOf hs hp hk hlen d m
  calc exec (.asmAccept ⟨d, m, 0x34, payloadOf p.midiKey (recordBytesOf sub (ck data) data ++ extra)⟩) s
      = fileRecord (recordBytesOf sub (ck data) data ++ (extra ++ tail)) (noteModel m s) := by
        rw [← List.append_assoc]; exact htail
    _ = fileFlash sub (ck data) data (noteModel m s) := fileRecord_flash hsub _ hd _ _
    _ = .next (s.storedFlash m sub data) := by simp only [fileFlash, checksumOk, decide_true, if_true]; rfl

/-- A verified record form is the good flash event that carries it, from the profile's own model ID (R181, log 9). -/
theorem stores_recFlash {p : Profile} (hk : p.midiKey ≠ []) {sub : Half} (hsub : sub ≠ 0xFF00) {data : Buffer}
    (hd : data.length = 256) : Stores p (.recFlash sub (ck data) ⟨p, data⟩) p.modelId sub data := by
  intro s hs hp
  have hevent := stores_asmAccept hk Config.broadcastId p.modelId hsub hd [] s hs hp
  rw [List.append_nil] at hevent
  exact (acceptRecord_of_key hk _ s).trans hevent

/-! ## Two of them -/

/-- Two instructions that both go on. -/
theorem execAll_two {i j : Instr} {s t u : State} (hi : exec i s = .next t) (hj : exec j t = .next u) :
    execAll [i, j] s = some (u, [t.answer, u.answer]) := by
  simp only [execAll, hi, hj, Option.map_some]

theorem Stores.execAll_pair {p : Profile} {i j : Instr} {m m' : Seven} {a b : Half} {x y : Buffer} (hi : Stores p i m a x)
    (hj : Stores p j m' b y) {s : State} (hs : s.asmStatus = .ok) (hp : s.prof = some p) :
    execAll [i, j] s = some ((s.storedFlash m a x).storedFlash m' b y, [.done, .done]) := by
  rw [execAll_two (hi s hs hp) (hj _ (by simp [hs]) (by simp [hp])), storedFlash_answer, storedFlash_answer]

/-- Two instructions that store under different numbers give the same state and the same answers in either order. -/
theorem Stores.arrival_order {p : Profile} {i j : Instr} {m m' : Seven} {a b : Half} {x y : Buffer} (hi : Stores p i m a x)
    (hj : Stores p j m' b y) {s : State} (hs : s.asmStatus = .ok) (hp : s.prof = some p) (hm : m = m' ∨ s.seenModel ≠ none)
    (hab : a ≠ b) : ∃ t as, execAll [i, j] s = some (t, as) ∧ execAll [j, i] s = some (t, as) :=
  ⟨_, _, hi.execAll_pair hj hs hp, storedFlash_comm hm hab x y ▸ hj.execAll_pair hi hs hp⟩

/-- Settles O48: each of the four instructions stores its sub-block, and stores under different numbers commute. -/
theorem arrivalOrderDoesNotMatter : Obligations.ArrivalOrderDoesNotMatter := by
  refine ⟨?_, ?_⟩
  · rintro s p d d' m m' a b x y extra extra' e e' hs - hp hk hab ha hb hx hy hm rfl rfl
    exact (stores_asmAccept hk d m ha hx extra).arrival_order (stores_asmAccept hk d' m' hb hy extra') hs hp hm hab
  · intro s p a b x y hs _ hp hk hab ha hb hx hy
    exact (stores_recFlash hk ha hx).arrival_order (stores_recFlash hk hb hy) hs hp (.inl rfl) hab

end Sys2Proof.Machine
end

section
/-! The encoding forwards: what the decoder answers to the bytes of each format the encoder writes, and to an `OP` byte that is
in no table (R70, R72, R73, R80, R81). -/

namespace Sys2Proof

/-! ## Seven bits as a clean byte -/

@[simp] theorem sevenByte_getElem_seven (v : Seven) : (sevenByte v)[7] = false := by simp [sevenByte]

@[simp] theorem setWidth_sevenByte (v : Seven) : (sevenByte v).setWidth 7 = v := by simp [sevenByte]

theorem sevenByte_getLsbD (v : Seven) {j : Nat} (hj : j < 8) : (sevenByte v).getLsbD j = v.getLsbD j := by
  simp [sevenByte, hj]

/-- A byte is clean if its value is below 0x80 (R14). -/
theorem clean_iff_toNat_lt (b : Byte) : clean b = true ↔ b.toNat < 0x80 := by
  have htop : b.getLsbD 7 = decide (0x80 ≤ b.toNat) := BitVec.msb_eq_decide b
  rw [clean, htop]
  simp

/-- The payload of an event is clean (R153), in values. -/
theorem Event.wellFormed_iff (e : Event) : e.wellFormed = true ↔ ∀ b ∈ e.payload, b.toNat < 0x80 := by
  simp only [Event.wellFormed, List.all_eq_true, clean_iff_toNat_lt]

/-! ## Format OP -/

/-- The code of an operation, its own operands, and values of their types. -/
theorem decode_opTransaction {code : Byte} {op : Op} {operands : List Operand} {i : Instr} (hcode : opOfCode code = some op)
    (hbuild : op.build operands = some i) (hi : i.wellFormed = true) : decode (opTransaction code operands) = .ok i := by
  simp only [decode, opTransaction, decodeOp, hcode, hbuild, hi, if_true]

/-- A code selects no operation exactly when the table does not list it (R81). -/
theorem opOfCode_eq_none_iff (code : Byte) : opOfCode code = none ↔ code ∉ opTable.map Prod.fst := by
  simp only [opOfCode, List.lookup_eq_none_iff, List.mem_map, not_exists, not_and, bne_iff_ne]
  exact ⟨fun h p hp hc => h p hp hc.symm, fun h p hp hc => h p hp hc.symm⟩

/-! ## Format EVT -/

/-- A built event is the form EVT.WRITE_FLASH under command 0x34 and the operand of an ASM.ACCEPT under another (R70, R80, R84). -/
theorem decodeEvent_eventBytesOf (d m c : Seven) {payload : Buffer} (hp : payload.all clean = true) :
    decodeEvent (eventBytesOf (sevenByte d) (sevenByte m) (sevenByte c) payload) =
      if c = Config.cmdWriteFlash then .ok (.evtWriteFlash d m payload) else .ok (.asmAccept ⟨d, m, c, payload⟩) := by
  have hhead : (eventBytesOf (sevenByte d) (sevenByte m) (sevenByte c) payload).take 4 = Config.startByte :: Config.vendor := rfl
  have hrest : (eventBytesOf (sevenByte d) (sevenByte m) (sevenByte c) payload).drop 4 =
      sevenByte d :: sevenByte m :: sevenByte c :: (payload ++ [Config.endByte]) := rfl
  have hbody : (sevenByte d :: sevenByte m :: sevenByte c :: payload).all clean = true := by simp [hp]
  rw [decodeEvent, if_pos hhead, hrest]
  simp only [List.getLast?_concat, List.dropLast_concat, hbody, decide_true, Bool.and_self, if_true, setWidth_sevenByte]

/-! ## Format REC -/

/-- A built record is the form its number names (R72, R80). -/
theorem decodeRecord_recordBytesOf (sub : Half) (k : Byte) {c : Carried} (hc : c.wellFormed = true) :
    decodeRecord (recordBytesOf sub k c.bytes) [.profile c.profile] =
      if sub = Config.msgSub then .ok (.recMsg k c) else .ok (.recFlash sub k c) := by
  have hsub : sub.extractLsb' 8 8 ++ sub.extractLsb' 0 8 = sub := Machine.recNumber_recordBytesOf sub k c.bytes
  simp only [recordBytesOf, List.cons_append, List.nil_append, decodeRecord, hc, if_true, hsub]

/-! ## Format GRP -/

/-- Eight clean bytes are the group of their low seven bits (R73). -/
theorem decodeGroup_sevenBytes (p0 p1 p2 p3 p4 p5 p6 h : Seven) :
    decodeGroup [sevenByte p0, sevenByte p1, sevenByte p2, sevenByte p3, sevenByte p4, sevenByte p5, sevenByte p6, sevenByte h] =
      .ok (.grp p0 p1 p2 p3 p4 p5 p6 h) := by
  simp [decodeGroup]

/-! ## Every row -/

/-- Settles O1: one lemma a format; the rows of format OP differ in their code and operands only. -/
theorem encodedInstructionDecodesBack : Obligations.EncodedInstructionDecodesBack := by
  intro i hi
  cases i with
  | evtWriteFlash d m payload => exact decodeEvent_eventBytesOf d m Config.cmdWriteFlash hi
  | recFlash sub k data =>
    obtain ⟨hdata, hsub⟩ : data.wellFormed = true ∧ sub ≠ Config.msgSub := by simpa [Instr.wellFormed] using hi
    exact (decodeRecord_recordBytesOf sub k hdata).trans (if_neg hsub)
  | recMsg k text => exact decodeRecord_recordBytesOf Config.msgSub k hi
  | grp p0 p1 p2 p3 p4 p5 p6 h => exact decodeGroup_sevenBytes p0 p1 p2 p3 p4 p5 p6 h
  | _ => exact decode_opTransaction rfl rfl hi

/-- Settles O3: the written-out wire forms are encodings of the instructions named, and so decode back; the `OP` words are
looked up. -/
theorem wordsOfTheTableDecode : Obligations.WordsOfTheTableDecode :=
  ⟨rfl, rfl, rfl, rfl,
    encodedInstructionDecodesBack (.evtWriteFlash 0x7F 0x12 [1, 2]) (by decide),
    encodedInstructionDecodesBack (.grp 0 1 2 3 4 5 6 0x7F) rfl,
    encodedInstructionDecodesBack (.recFlash 0x07FF 0xBF ⟨Config.profileA 0x12, rep 0xFF 256⟩) (by decide +kernel),
    encodedInstructionDecodesBack (.recMsg 0x42 ⟨Config.profileA 0x12, rep 0 256⟩) (by decide +kernel)⟩

/-- Settles O4: the 27 codes are those of the table, and a code outside it selects no operation. -/
theorem unassignedOpIsRefused : Obligations.UnassignedOpIsRefused := by
  intro s code operands rest hp hcode
  have hnone : opOfCode code = none := (opOfCode_eq_none_iff code).2 hcode
  have hdecode : decode ⟨.op, [code], operands⟩ = .error (.unassignedOp code) := by
    simp only [decode, decodeOp, hnone]
  exact Machine.step_of_decode_error hp hdecode

end Sys2Proof
end

section
/-! The wire forms at work: the seven bytes of a group (R73, R78), the clean payloads of parsed events (R71, R153), and the event
of a command the codec does not handle (R84). -/

namespace Sys2Proof.Machine

/-! ## The group -/

/-- Below bit 7 a byte is unpacked as it stands; bit 7 comes from `H` beside its own (R101). -/
theorem unpackByte_getLsbD (c : Buffer) {i j : Nat} (hi : i < 7) (hj : j < 8) :
    (unpackByte c i).getLsbD j = ((c.getD i 0).getLsbD j || (decide (j = 7) && (c.getD 7 0).getLsbD (6 - i))) := by
  rw [unpackByte, BitVec.getLsbD_or, BitVec.getLsbD_and, BitVec.getLsbD_shiftLeft, topBit_getLsbD hj]
  by_cases h7 : j = 7
  · have hindex : 7 - (i + 1) = 6 - i := by omega
    have hshift : ¬ 7 < i + 1 := by omega
    simp [h7, hindex, hshift]
  · simp [h7]

/-- The low seven bits of a byte go through UNPACK. -/
theorem setWidth_unpackByte (c : Buffer) {i : Nat} (hi : i < 7) :
    (unpackByte c i).setWidth 7 = (c.getD i 0).setWidth 7 := by
  apply BitVec.eq_of_getLsbD_eq
  intro j hj
  have hj7 : j ≠ 7 := by omega
  simp [unpackByte_getLsbD c hi (by omega : j < 8), hj7]

/-- Bit 7 of an unpacked clean byte is bit `6-i` of `H` (R78). -/
theorem unpackByte_getLsbD_seven {c : Buffer} {i : Nat} (hi : i < 7) (hc : (c.getD i 0).getLsbD 7 = false) :
    (unpackByte c i).getLsbD 7 = (c.getD 7 0).getLsbD (6 - i) := by
  rw [unpackByte_getLsbD c hi (by omega), hc, decide_eq_true rfl, Bool.false_or, Bool.true_and]

theorem low7_getLsbD (b : Byte) {j : Nat} (hj : j < 8) : (low7 b).getLsbD j = (b.getLsbD j && decide (j ≠ 7)) := by
  rw [low7, BitVec.getLsbD_and, lowBits_getLsbD hj]

/-- `H` itself is clean (R105). -/
theorem highBits_getLsbD_seven (b : Nat → Byte) : (highBits b).getLsbD 7 = false := by simp [highBits]

theorem unpackGroup_getD (c : Buffer) {i : Nat} (hi : i < 7) : (unpackGroup c).getD i 0 = unpackByte c i := by
  interval_cases i <;> rfl

/-- PACK takes the low seven bits of a clean byte back. -/
theorem low7_unpackByte {c : Buffer} {i : Nat} (hi : i < 7) (hc : (c.getD i 0).getLsbD 7 = false) :
    low7 (unpackByte c i) = c.getD i 0 := by
  apply BitVec.eq_of_getLsbD_eq
  intro j hj
  rw [low7_getLsbD _ hj, unpackByte_getLsbD c hi hj]
  by_cases h7 : j = 7
  · subst h7
    simpa using hc
  · simp [h7]

/-- PACK takes `H` back from the top bits of the unpacked bytes. -/
theorem highBits_unpackGroup {c : Buffer} (hc : ∀ i, i < 8 → (c.getD i 0).getLsbD 7 = false) :
    highBits (fun i => (unpackGroup c).getD i 0) = c.getD 7 0 := by
  apply BitVec.eq_of_getLsbD_eq
  intro j hj
  by_cases h7 : j = 7
  · subst h7
    rw [highBits_getLsbD_seven, hc 7 (by omega)]
  · obtain ⟨i, hi, rfl⟩ : ∃ i, i < 7 ∧ j = 6 - i := ⟨6 - j, by omega, by omega⟩
    rw [highBits_getLsbD _ hi, unpackGroup_getD c hi, unpackByte_getLsbD_seven hi (hc i (by omega))]

/-- Eight clean bytes are packed again from the seven they give (R103). -/
theorem packGroup_unpackGroup {c : Buffer} (hlen : c.length = 8) (hc : ∀ i, i < 8 → (c.getD i 0).getLsbD 7 = false) :
    packGroup (unpackGroup c) = c := by
  refine List.ext_getElem (by simp [hlen]) fun i hi hi' => ?_
  rw [packGroup_length] at hi
  rw [← List.getD_eq_getElem c 0 hi', ← List.getD_eq_getElem _ 0]
  by_cases h7 : i = 7
  · subst h7
    exact highBits_unpackGroup hc
  · have hi7 : i < 7 := by omega
    have hlow : (packGroup (unpackGroup c)).getD i 0 = low7 ((unpackGroup c).getD i 0) := by interval_cases i <;> rfl
    rw [hlow, unpackGroup_getD c hi7, low7_unpackByte hi7 (hc i hi)]

/-- Seven bytes are one group. -/
theorem pack_of_length_seven {x : Buffer} (hx : x.length = 7) : pack x = packGroup x := by
  have hgroups : pack x = packGroups 1 x := by rw [pack, hx]
  rw [hgroups, packGroups, List.take_of_length_le hx.le, packGroups, List.append_nil]

/-- The eight bytes of a group are clean (R73). -/
theorem encode_grp_getD_clean (p0 p1 p2 p3 p4 p5 p6 h : Seven) {i : Nat} (hi : i < 8) :
    ((encode (.grp p0 p1 p2 p3 p4 p5 p6 h)).bytes.getD i 0).getLsbD 7 = false := by
  interval_cases i <;> exact sevenByte_getElem_seven _

/-- The form GRP answers the UNPACK of its bytes (log 10). -/
theorem exec_grp (p0 p1 p2 p3 p4 p5 p6 h : Seven) (s : State) : exec (.grp p0 p1 p2 p3 p4 p5 p6 h) s =
    .next (s.answered (.bytes (unpackGroup (encode (.grp p0 p1 p2 p3 p4 p5 p6 h)).bytes))) := rfl

theorem exec_pack (x : Buffer) (s : State) : exec (.pack x) s = .next (s.answered (.bytes (pack x))) := rfl

/-- Settles O18: the group's bytes are clean, so UNPACK adds the bits of `H` to them and PACK takes both apart again. -/
theorem groupFormGivesItsSevenBytes : Obligations.GroupFormGivesItsSevenBytes := by
  intro p0 p1 p2 p3 p4 p5 p6 h s
  have hclean : ∀ i, i < 8 → ((encode (.grp p0 p1 p2 p3 p4 p5 p6 h)).bytes.getD i 0).getLsbD 7 = false :=
    fun i => encode_grp_getD_clean p0 p1 p2 p3 p4 p5 p6 h
  refine ⟨_, exec_grp p0 p1 p2 p3 p4 p5 p6 h s, unpackGroup_length _, fun i hi => ⟨?_, ?_⟩, ?_⟩
  · rw [unpackGroup_getD _ hi, setWidth_unpackByte _ hi]
    interval_cases i <;> exact setWidth_sevenByte _
  · rw [unpackGroup_getD _ hi, unpackByte_getLsbD_seven hi (hclean i (by omega))]
    exact sevenByte_getLsbD h (by omega)
  · rw [exec_pack, pack_of_length_seven (unpackGroup_length _), packGroup_unpackGroup rfl hclean]
    rfl

/-! ## Parsed events -/

/-- The payload of a finished event is a part of the accumulator (R143, R144). -/
theorem finalize_event_wellFormed {b : Byte} {s : State} {e : Event} (hacc : ∀ x ∈ s.acc, clean x = true)
    (he : (finalize b s).2 = some e) : e.wellFormed = true := by
  rcases finalize_cases b s with ⟨d, m, c, p, -, hbody, h⟩ | ⟨flaw, st', -, h⟩ <;> rw [h] at he <;> cases he
  exact List.all_eq_true.2 fun x hx => hacc x (by simp [hbody, hx])

/-- A byte that ends an event returns a clean one; no other byte returns any (R141). -/
theorem feedByte_event_wellFormed {b : Byte} {s : State} {e : Event} (hacc : ∀ x ∈ s.acc, clean x = true)
    (he : (feedByte b s).2 = some e) : e.wellFormed = true := by
  rcases feedByte_cases b s with ⟨-, -, h⟩ | ⟨-, -, h⟩ | ⟨-, -, h⟩ | ⟨-, -, h⟩ | ⟨-, h⟩ <;> rw [h] at he
  · cases he
  · cases he
  · cases he
  · exact finalize_event_wellFormed (s := { s with st := .finalize }) hacc he
  · exact finalize_event_wellFormed hacc he

theorem feedAll_events_wellFormed {bs : Buffer} {s : State} (hs : ParserOk s) :
    ∀ e ∈ (feedAll bs s).2, e.wellFormed = true := by
  induction bs generalizing s with
  | nil => simp
  | cons b bs ih =>
    intro e he
    rw [feedAll_cons] at he
    rcases List.mem_append.1 he with hfirst | hrest
    · exact feedByte_event_wellFormed hs.acc_clean (Option.mem_toList.1 hfirst)
    · exact ih (feedByte_parserOk b hs) e hrest

theorem scan_events_wellFormed (buf : Buffer) (s : State) : ∀ e ∈ (scan buf s).2, e.wellFormed = true :=
  feedAll_events_wellFormed (parserOk_of_acc_nil (by simp) rfl)

/-- Settles O35: an event's payload stood in the accumulator, which a scan fills with clean bytes only. -/
theorem parsedEventsAreClean : Obligations.ParsedEventsAreClean := by
  refine ⟨?_, fun buf s => ⟨_, _, rfl, rfl, fun e he => ?_⟩⟩
  · rintro s _ b e hacc ⟨⟩ hanswer
    have he : (feedByte b s).2 = some e := Answer.event.inj hanswer
    have hclean : ∀ x ∈ s.acc, clean x = true := fun x hx => (clean_iff_toNat_lt x).2 (hacc x hx)
    exact e.wellFormed_iff.1 (feedByte_event_wellFormed hclean he)
  · exact e.wellFormed_iff.1 (scan_events_wellFormed buf s e he)

/-! ## An event of another command -/

/-- The acceptance of an event the codec does not handle (R84). -/
theorem accept_of_unknownCommand {s : State} {ev : Event} (hs : s.asmStatus = .ok) (hc : ev.command ≠ Config.cmdWriteFlash) :
    accept ev s = .next ((s.skipped (.unknownCommand ev.command)).answered .done) := by
  rw [accept, whileOk_of_ok hs, if_neg hc]

/-- Settles O45. -/
theorem unknownCommandIsSkipped : Obligations.UnknownCommandIsSkipped :=
  fun _ _ hs hc => accept_of_unknownCommand hs hc

end Sys2Proof.Machine
end

section
/-! U1, group by group: which bytes PACK and UNPACK emit and where they stand (R100, R101), that the packed ones are clean
(R105), and that PACK undoes UNPACK on clean bytes (R103). -/

namespace Sys2Proof.Machine

/-! ## Where a group stands -/

/-- A run that turns the next `k` bytes into a group of `m` emits the group of bytes `k * g` onwards at `m * g` onwards. -/
theorem group_getElem? {run : Nat → Buffer → Buffer} {f : Buffer → Buffer} {k m : Nat} (hf : ∀ c, (f c).length = m)
    (hrun : ∀ n x, run (n + 1) x = f (x.take k) ++ run n (x.drop k)) {n g i : Nat} (hg : g < n) (hi : i < m) (x : Buffer) :
    (run n x)[m * g + i]? = (f ((x.drop (k * g)).take k))[i]? := by
  induction n generalizing g x with
  | zero => omega
  | succ n ih =>
    cases g with
    | zero =>
      rw [hrun, Nat.mul_zero, Nat.zero_add, List.getElem?_append_left (by rwa [hf]), Nat.mul_zero, List.drop_zero]
    | succ g =>
      have hskip : m * (g + 1) + i = m + (m * g + i) := by ring
      have hdrop : k + k * g = k * (g + 1) := by ring
      rw [hrun, List.getElem?_append_right (by rw [hf]; omega), hf, hskip, Nat.add_sub_cancel_left, ih (by omega),
        List.drop_drop, hdrop]

/-- Byte `i` of the part of a buffer that makes a group; zero past the buffer's end. -/
theorem getD_take_drop (x : Buffer) (a : Nat) {i k : Nat} (hi : i < k) :
    ((x.drop a).take k).getD i 0 = x.getD (a + i) 0 := by
  simp [hi]

/-! ## PACK -/

theorem packGroup_getElem? (c : Buffer) {i : Nat} (hi : i < 7) : (packGroup c)[i]? = some (low7 (c.getD i 0)) := by
  interval_cases i <;> rfl

/-- The low seven bits of byte `i` of group `g` (R100). -/
theorem pack_getElem?_low (x : Buffer) {g i : Nat} (hg : g < (x.length + 6) / 7) (hi : i < 7) :
    (pack x)[8 * g + i]? = some (low7 (x.getD (7 * g + i) 0)) := by
  rw [pack, group_getElem? packGroup_length (fun _ _ => rfl) hg (by omega), packGroup_getElem? _ hi, getD_take_drop x _ hi]

/-- `H` of group `g`, with its bits (R100). -/
theorem pack_getElem?_high (x : Buffer) {g : Nat} (hg : g < (x.length + 6) / 7) :
    ∃ H : Byte, (pack x)[8 * g + 7]? = some H ∧ H.getLsbD 7 = false ∧
      ∀ i, i < 7 → H.getLsbD (6 - i) = (x.getD (7 * g + i) 0).getLsbD 7 := by
  refine ⟨highBits fun j => ((x.drop (7 * g)).take 7).getD j 0, ?_, highBits_getLsbD_seven _, fun i hi => ?_⟩
  · exact group_getElem? packGroup_length (fun _ _ => rfl) hg (by omega) x
  · rw [highBits_getLsbD _ hi, getD_take_drop x _ hi]

/-- Settles O14. -/
theorem packEmitsGroupsOfEight : Obligations.PackEmitsGroupsOfEight :=
  fun x s => ⟨rfl, pack x, exec_pack x s, pack_length x, fun _ hg =>
    ⟨fun _ hi => pack_getElem?_low x hg hi, pack_getElem?_high x hg⟩⟩

/-! ## UNPACK -/

theorem exec_unpack (y : Buffer) (s : State) : exec (.unpack y) s = deliver (unpack y) .bytes s := rfl

/-- UNPACK of whole groups answers seven bytes for each. -/
theorem exec_unpack_of_dvd {y : Buffer} (h : y.length % 8 = 0) (s : State) :
    exec (.unpack y) s = .next (s.answered (.bytes (unpackGroups (y.length / 8) y))) := by
  rw [exec_unpack, unpack_of_dvd h, deliver_value]

/-- UNPACK of anything else raises `BadLength`; a fault of a stateless operation changes the answer only. -/
theorem exec_unpack_of_not_dvd {y : Buffer} (h : y.length % 8 ≠ 0) (s : State) :
    exec (.unpack y) s = .next (s.answered (.raised (.badLength y.length))) := by
  rw [exec_unpack, unpack, if_neg h, deliver_raise]
  rfl

theorem unpackGroup_getElem? (c : Buffer) {i : Nat} (hi : i < 7) : (unpackGroup c)[i]? = some (unpackByte c i) := by
  interval_cases i <;> rfl

/-- Byte `i` of group `g`, bit 7 from the group's `H` (R101). -/
theorem unpackGroups_getElem? (y : Buffer) {n g i : Nat} (hg : g < n) (hi : i < 7) : (unpackGroups n y)[7 * g + i]? =
    some (y.getD (8 * g + i) 0 ||| ((y.getD (8 * g + 7) 0 <<< (i + 1)) &&& 0x80)) := by
  rw [group_getElem? unpackGroup_length (fun _ _ => rfl) hg hi, unpackGroup_getElem? _ hi, unpackByte,
    getD_take_drop y _ (by omega : i < 8), getD_take_drop y _ (by omega : 7 < 8)]

/-- Settles O15. -/
theorem unpackRecoversTheHighBits : Obligations.UnpackRecoversTheHighBits :=
  fun y s => ⟨rfl, fun h => exec_unpack_of_not_dvd h s, fun h =>
    ⟨_, exec_unpack_of_dvd h s, unpackGroups_length _ y, fun _ hg _ hi => unpackGroups_getElem? y hg hi⟩⟩

/-! ## The round trips -/

/-- A byte of a clean buffer is clean, and so is the zero past its end. -/
theorem getD_getLsbD_seven_of_clean {y : Buffer} (hy : ∀ b ∈ y, clean b = true) (i : Nat) :
    (y.getD i 0).getLsbD 7 = false := by
  by_cases hi : i < y.length
  · rw [List.getD_eq_getElem y 0 hi]
    exact Bool.not_inj (hy _ (List.getElem_mem hi))
  · rw [List.getD_eq_default y 0 (by omega)]
    rfl

/-- Groups of clean bytes are packed again from the bytes they give (R103). -/
theorem packGroups_unpackGroups {n : Nat} {y : Buffer} (hlen : y.length = 8 * n) (hy : ∀ b ∈ y, clean b = true) :
    packGroups n (unpackGroups n y) = y := by
  induction n generalizing y with
  | zero => exact (List.length_eq_zero_iff.1 hlen).symm
  | succ n ih =>
    have hfirst : (unpackGroups (n + 1) y).take 7 = unpackGroup (y.take 8) := rfl
    have hrest : (unpackGroups (n + 1) y).drop 7 = unpackGroups n (y.drop 8) := rfl
    have htake : (y.take 8).length = 8 := by rw [List.length_take]; omega
    have hdrop : (y.drop 8).length = 8 * n := by rw [List.length_drop]; omega
    have hclean : ∀ b ∈ y.take 8, clean b = true := fun b hb => hy b (List.mem_of_mem_take hb)
    rw [packGroups, hfirst, hrest, packGroup_unpackGroup htake fun i _ => getD_getLsbD_seven_of_clean hclean i,
      ih hdrop fun b hb => hy b (List.mem_of_mem_drop hb), List.take_append_drop]

/-- `PACK(UNPACK(y))` is `y` when every byte of `y` is clean (R103). -/
theorem pack_unpackGroups {y : Buffer} (h : y.length % 8 = 0) (hy : ∀ b ∈ y, clean b = true) :
    pack (unpackGroups (y.length / 8) y) = y := by
  have hgroups : (7 * (y.length / 8) + 6) / 7 = y.length / 8 := by omega
  rw [pack, unpackGroups_length, hgroups, packGroups_unpackGroups (by omega) hy]

/-- Settles O16: each group gives back what it was made from. -/
theorem packAndUnpackAreInverse : Obligations.PackAndUnpackAreInverse := by
  refine ⟨fun x s => ⟨_, exec_pack x s, ?_⟩, fun y s h hy => ⟨_, exec_unpack_of_dvd h s, ?_⟩⟩
  · rw [exec_unpack, unpack_pack, deliver_value]
    rfl
  · rw [exec_pack, pack_unpackGroups h fun b hb => (clean_iff_toNat_lt b).2 (hy b hb)]
    rfl

/-! ## The range of PACK -/

theorem clean_low7 (b : Byte) : clean (low7 b) = true := by
  rw [clean, low7_getLsbD b (by omega)]
  simp

theorem clean_highBits (b : Nat → Byte) : clean (highBits b) = true := by
  rw [clean, highBits_getLsbD_seven, Bool.not_false]

/-- The eight bytes of a group are clean: seven by the mask, `H` by its make (R105). -/
theorem clean_of_mem_packGroup {c : Buffer} {b : Byte} (hb : b ∈ packGroup c) : clean b = true := by
  have hall : (packGroup c).all clean = true := by
    simp only [packGroup, List.all_cons, clean_low7, clean_highBits, List.all_nil, Bool.and_self]
  exact List.all_eq_true.1 hall b hb

theorem clean_of_mem_packGroups {n : Nat} {x : Buffer} {b : Byte} (hb : b ∈ packGroups n x) : clean b = true := by
  induction n generalizing x with
  | zero => cases hb
  | succ n ih => exact (List.mem_append.1 hb).elim clean_of_mem_packGroup ih

/-- Settles O17. -/
theorem packedBytesAreClean : Obligations.PackedBytesAreClean :=
  fun x s => ⟨_, exec_pack x s, fun b hb =>
    Nat.le_of_lt_succ ((clean_iff_toNat_lt b).1 (clean_of_mem_packGroups hb))⟩

end Sys2Proof.Machine
end

section
/-! U2: which byte XORK answers at each index (R110), and that a second XORK with the same key undoes the first (R111). -/

namespace Sys2Proof.Machine

theorem exec_xork_nil (d : Buffer) (s : State) : exec (.xork [] d) s = .refused .emptyKey := rfl

/-- XORK with a key answers, and changes the answer only. -/
theorem exec_xork_of_ne {k : Buffer} (hk : k ≠ []) (d : Buffer) (s : State) :
    exec (.xork k d) s = .next (s.answered (.bytes (xorFrom k 0 d))) := by
  have harm : exec (.xork k d) s = deliver (xork k d) .bytes s := rfl
  rw [harm, xork_of_ne hk, deliver_value]

/-- From key position `j` on, byte `i` of the data meets the key's byte `(j + i) mod K` (R110). -/
theorem xorFrom_getElem? (k : Buffer) (j : Nat) {d : Buffer} {i : Nat} (hi : i < d.length) :
    (xorFrom k j d)[i]? = some (d.getD i 0 ^^^ k.getD ((j + i) % k.length) 0) := by
  induction d generalizing j i with
  | nil => exact absurd hi (Nat.not_lt_zero i)
  | cons b ds ih =>
    cases i with
    | zero => rfl
    | succ i =>
      have hnext : j + 1 + i = j + (i + 1) := by omega
      rw [xorFrom, List.getElem?_cons_succ, ih (j + 1) (Nat.lt_of_succ_lt_succ hi), hnext, List.getD_cons_succ]

/-- Settles O19: the key position starts at 0, so it is the data's own index. -/
theorem xorkXorsWithTheCycledKey : Obligations.XorkXorsWithTheCycledKey := by
  refine fun k d s => ⟨rfl, fun hk => ⟨_, exec_xork_of_ne hk d s, xorFrom_length k 0 d, fun i hi => ?_⟩, ?_⟩
  · rw [xorFrom_getElem? k 0 hi, Nat.zero_add]
  · rintro rfl
    exact exec_xork_nil d s

/-- Settles O20: both passes start at key position 0, so each byte meets the same key byte twice. -/
theorem xorkTwiceIsTheIdentity : Obligations.XorkTwiceIsTheIdentity := by
  refine fun k d s hk => ⟨_, exec_xork_of_ne hk d s, ?_⟩
  rw [exec_xork_of_ne hk, xorFrom_xorFrom]
  rfl

end Sys2Proof.Machine
end

section
/-! U3: the checksum as a fold over bits (R121, R122), the difference law of R125, and what it says of single-bit changes
(R124) and of a wrong key (R126). -/

namespace Sys2Proof.Machine

/-! ## Zeros as the model writes them -/

/-- `BitVec.xor_zero` for zero as the model writes it. -/
theorem xor_zero_byte (b : Byte) : b ^^^ 0 = b := BitVec.xor_zero

theorem rep_succ (v : Byte) (n : Nat) : rep v (n + 1) = v :: rep v n := List.replicate_succ

/-! ## One round -/

theorem ror8_eq_rotateRight (c : Byte) : ror8 c = c.rotateRight 1 := by
  apply BitVec.eq_of_getLsbD_eq
  intro i hi
  interval_cases i <;> simp [ror8]

theorem ror8_xor (x y : Byte) : ror8 (x ^^^ y) = ror8 x ^^^ ror8 y := by
  apply BitVec.eq_of_getLsbD_eq
  intro i hi
  interval_cases i <;> simp [ror8]

theorem and_one_eq_zero_iff (x : Byte) : x &&& 1 = 0 ↔ x.getLsbD 0 = false := by
  revert x
  decide

/-- The mask goes in exactly when the two low bits are equal (R121). -/
theorem ckRound_c_of_bits (r : CkRegs) :
    (ckRound r).c = ror8 (if r.b.getLsbD 0 = r.c.getLsbD 0 then r.c ^^^ 0x19 else r.c) := by
  have hcond : (r.b ^^^ r.c) &&& 1 = 0 ↔ r.b.getLsbD 0 = r.c.getLsbD 0 := by
    rw [and_one_eq_zero_iff, BitVec.getLsbD_xor, bne_eq_false_iff_eq]
  simp only [ckRound, ckMask, hcond]

theorem ckRound_b (r : CkRegs) : (ckRound r).b = r.b >>> 1 := rfl

/-- The round in closed form (R125). -/
theorem ckRound_c (r : CkRegs) :
    (ckRound r).c = ror8 (r.c ^^^ if (true ^^ r.b.getLsbD 0 ^^ r.c.getLsbD 0) = true then 0x19 else 0x00) := by
  rw [ckRound_c_of_bits]
  cases r.b.getLsbD 0 <;> cases r.c.getLsbD 0 <;> simp

/-! ## The bits of a buffer -/

/-- A round by its input bit. -/
def ckBit (c : Byte) (x : Bool) : Byte := (if x = c.getLsbD 0 then c ^^^ 0x19 else c).rotateRight 1

/-- `n` rounds take the low `n` bits of the byte, bit 0 first (R54, R121). -/
theorem ckRounds_c_eq_foldl (n : Nat) (c b : Byte) :
    (ckRounds n ⟨c, b⟩).c = ((List.range n).map fun r => b.getLsbD r).foldl ckBit c := by
  induction n generalizing c b with
  | zero => rfl
  | succ n ih =>
    have hround : ckRound ⟨c, b⟩ = ⟨ckBit c (b.getLsbD 0), b >>> 1⟩ := by
      rw [ckBit, ← ror8_eq_rotateRight, ← ckRound_c_of_bits ⟨c, b⟩, ← ckRound_b ⟨c, b⟩]
    have hbits : (fun r => (b >>> 1).getLsbD r) = (fun r => b.getLsbD r) ∘ Nat.succ := by
      funext r
      rw [BitVec.getLsbD_ushiftRight, Function.comp_apply, Nat.succ_eq_one_add]
    rw [ckRounds, hround, ih, hbits, List.range_succ_eq_map, List.map_cons, List.foldl_cons, List.map_map]

/-- The state after a buffer is the fold of the round over its bits (R121). -/
theorem ckBytes_eq_foldl_bits (data : Buffer) (c : Byte) :
    ckBytes data c = (data.flatMap fun b => (List.range 8).map fun r => b.getLsbD r).foldl ckBit c := by
  have hbyte : ckByte = fun c b => ((List.range 8).map fun r => b.getLsbD r).foldl ckBit c := by
    funext c b
    exact ckRounds_c_eq_foldl 8 c b
  rw [ckBytes_eq_foldl, List.foldl_flatMap, hbyte]

/-! ## The operation -/

theorem exec_csum (data : Buffer) (s : State) : exec (.csum data) s = deliver (csum data) .byte s := rfl

theorem exec_csum_of_length {data : Buffer} (h : data.length = 256) (s : State) :
    exec (.csum data) s = .next (s.answered (.byte (ck data))) := by
  rw [exec_csum, csum, if_pos h, deliver_value]

theorem exec_csum_of_length_ne {data : Buffer} (h : data.length ≠ 256) (s : State) :
    exec (.csum data) s = .next (s.answered (.raised (.badLength data.length))) := by
  rw [exec_csum, csum, if_neg h, deliver_raise]
  rfl

/-- Settles O21. -/
theorem csumIsTheRollingChecksum : Obligations.CsumIsTheRollingChecksum :=
  fun data s => ⟨rfl, fun h => ⟨ck data, exec_csum_of_length h s, congrArg (· ^^^ ckFinal) (ckBytes_eq_foldl_bits data 0)⟩,
    fun h => exec_csum_of_length_ne h s⟩

/-! ## The difference law -/

/-- The round is affine: its condition is the parity of two bits, and the rotate keeps XOR (R125). -/
theorem ckRound_c_affine (c c' c'' b b' b'' : Byte) : (ckRound ⟨c ^^^ c' ^^^ c'', b ^^^ b' ^^^ b''⟩).c =
    (ckRound ⟨c, b⟩).c ^^^ (ckRound ⟨c', b'⟩).c ^^^ (ckRound ⟨c'', b''⟩).c := by
  have hmask : ∀ x x' x'' y y' y'' : Bool,
      (if (true ^^ (x ^^ x' ^^ x'') ^^ (y ^^ y' ^^ y'')) = true then 0x19 else 0x00 : Byte) =
        (if (true ^^ x ^^ y) = true then 0x19 else 0x00) ^^^ (if (true ^^ x' ^^ y') = true then 0x19 else 0x00) ^^^
          (if (true ^^ x'' ^^ y'') = true then 0x19 else 0x00) := by decide
  simp only [ckRound_c, BitVec.getLsbD_xor, hmask, ← ror8_xor]
  congr 1
  ac_rfl

theorem ckRounds_c_affine (n : Nat) (c c' c'' b b' b'' : Byte) : (ckRounds n ⟨c ^^^ c' ^^^ c'', b ^^^ b' ^^^ b''⟩).c =
    (ckRounds n ⟨c, b⟩).c ^^^ (ckRounds n ⟨c', b'⟩).c ^^^ (ckRounds n ⟨c'', b''⟩).c := by
  induction n generalizing c c' c'' b b' b'' with
  | zero => rfl
  | succ n ih =>
    have hround : ckRound ⟨c ^^^ c' ^^^ c'', b ^^^ b' ^^^ b''⟩ =
        ⟨(ckRound ⟨c, b⟩).c ^^^ (ckRound ⟨c', b'⟩).c ^^^ (ckRound ⟨c'', b''⟩).c,
          b >>> 1 ^^^ b' >>> 1 ^^^ b'' >>> 1⟩ := by
      rw [← ckRound_c_affine, ← BitVec.ushiftRight_xor_distrib, ← BitVec.ushiftRight_xor_distrib]
      rfl
    rw [ckRounds, hround, ih]
    rfl

/-- How the state after a byte changes when the state before it changes by `d` and the byte by `e`. -/
def ckDelta (d e : Byte) : Byte := ckByte d e ^^^ ckByte 0 0

/-- The change of the state after a byte depends on the changes only (R125). -/
theorem ckByte_xor (c d b e : Byte) : ckByte (c ^^^ d) (b ^^^ e) = ckByte c b ^^^ ckDelta d e := by
  have h := ckRounds_c_affine 8 c d 0 b e 0
  rwa [xor_zero_byte, xor_zero_byte, BitVec.xor_assoc] at h

theorem ckDelta_xor (d d' e e' : Byte) : ckDelta (d ^^^ d') (e ^^^ e') = ckDelta d e ^^^ ckDelta d' e' := by
  rw [ckDelta, ckByte_xor, BitVec.xor_assoc, BitVec.xor_comm (ckDelta d' e'), ← BitVec.xor_assoc, ← ckDelta]

theorem ckDelta_zero_zero : ckDelta 0 0 = 0 := BitVec.xor_self

/-- How the state after a buffer changes when the state before it changes by `d` and its bytes by `es`. -/
def ckDeltas (d : Byte) (es : Buffer) : Byte := es.foldl ckDelta d

theorem ckDeltas_cons (d e : Byte) (es : Buffer) : ckDeltas d (e :: es) = ckDeltas (ckDelta d e) es := rfl

theorem ckDeltas_append (d : Byte) (es es' : Buffer) : ckDeltas d (es ++ es') = ckDeltas (ckDeltas d es) es' :=
  List.foldl_append

theorem ckDeltas_zero_rep (n : Nat) : ckDeltas 0 (rep 0 n) = 0 := by
  induction n with
  | zero => rfl
  | succ n ih => rw [rep_succ, ckDeltas_cons, ckDelta_zero_zero, ih]

/-- Changes add up: one of the state alone, and one of the state and the bytes. -/
theorem ckDeltas_xor (d d' : Byte) (es : Buffer) :
    ckDeltas (d ^^^ d') es = ckDeltas d (rep 0 es.length) ^^^ ckDeltas d' es := by
  induction es generalizing d d' with
  | nil => rfl
  | cons e es ih =>
    have hstep : ckDelta (d ^^^ d') e = ckDelta d 0 ^^^ ckDelta d' e := by
      rw [← ckDelta_xor, BitVec.xor_comm 0, xor_zero_byte]
    rw [ckDeltas_cons, hstep, ih, List.length_cons, rep_succ, ckDeltas_cons, ckDeltas_cons]

/-- The state after a changed buffer: the change does not depend on the data (R125). -/
theorem ckBytes_zipWith_xor {m es : Buffer} (h : m.length = es.length) (c d : Byte) :
    ckBytes (List.zipWith (· ^^^ ·) m es) (c ^^^ d) = ckBytes m c ^^^ ckDeltas d es := by
  simp only [ckBytes_eq_foldl]
  induction m generalizing es c d with
  | nil =>
    cases List.length_eq_zero_iff.1 h.symm
    rfl
  | cons b m ih =>
    cases es with
    | nil => cases h
    | cons e es =>
      rw [List.zipWith_cons_cons, List.foldl_cons, ckByte_xor, ih (Nat.succ.inj h), List.foldl_cons, ckDeltas_cons]

/-- The checksum of a changed buffer. -/
theorem ck_zipWith_xor {m es : Buffer} (h : m.length = es.length) :
    ck (List.zipWith (· ^^^ ·) m es) = ck m ^^^ ckDeltas 0 es := by
  have hstate : ckBytes (List.zipWith (· ^^^ ·) m es) 0 = ckBytes m 0 ^^^ ckDeltas 0 es := ckBytes_zipWith_xor h 0 0
  rw [ck, hstate, BitVec.xor_assoc, BitVec.xor_comm (ckDeltas 0 es), ← BitVec.xor_assoc, ← ck]

theorem zipWith_xor_rep_zero (x : Buffer) : List.zipWith (· ^^^ ·) x (rep 0 x.length) = x := by
  induction x with
  | nil => rfl
  | cons b x ih => rw [List.length_cons, rep_succ, List.zipWith_cons_cons, ih, xor_zero_byte]

/-- The change is the one that the pattern makes of zeros. -/
theorem ck_eq_xor_ckDeltas (es : Buffer) : ck es = ck (rep 0 es.length) ^^^ ckDeltas 0 es := by
  rw [← ck_zipWith_xor List.length_replicate, List.zipWith_comm_of_comm BitVec.xor_comm, zipWith_xor_rep_zero]

theorem xor_xor_cancel (x y : Byte) : x ^^^ y ^^^ x = y := by
  rw [BitVec.xor_comm, ← BitVec.xor_assoc, BitVec.xor_self, BitVec.zero_xor]

/-- Settles O22: both sides of the law are the change that the pattern makes. -/
theorem checksumIsAffine : Obligations.ChecksumIsAffine := by
  refine ⟨ckRound_c, ckRound_c_affine, fun m d h => ?_⟩
  rw [ck_zipWith_xor h, xor_xor_cancel, ck_eq_xor_ckDeltas d, xor_xor_cancel]

/-! ## How a change lives on

After an unchanged byte a change stands in the low four bits of the state, where no further unchanged byte can lose it. -/

/-- An unchanged byte shifts a change into the low four bits. -/
theorem ckDelta_zero_lt (d : Byte) : ckDelta d 0 < 16 := by
  revert d
  decide +kernel

theorem ckDelta_zero_ne_zero_of_lt : ∀ d : Byte, d < 16 → d ≠ 0 → ckDelta d 0 ≠ 0 := by decide +kernel

/-- A change that lives through one unchanged byte lives through any number of them. -/
theorem ckDeltas_rep_ne_zero {d : Byte} (hd : d ≠ 0) (h : ckDelta d 0 ≠ 0) (n : Nat) : ckDeltas d (rep 0 n) ≠ 0 := by
  induction n generalizing d with
  | zero => exact hd
  | succ n ih => exact ih h (ckDelta_zero_ne_zero_of_lt _ (ckDelta_zero_lt d) h)

/-- The change that a changed bit makes lives through the next byte. -/
theorem ckDelta_bit_ne_zero : ∀ j < 8, ckDelta (ckDelta 0 ((1 : Byte) <<< j)) 0 ≠ 0 := by decide +kernel

/-- A changed bit changes the state at the end, wherever it stands (R124). -/
theorem ckDeltas_bit_ne_zero {j : Nat} (hj : j < 8) (before after : Nat) :
    ckDeltas 0 (rep 0 before ++ ((1 : Byte) <<< j) :: rep 0 after) ≠ 0 := by
  have hlives := ckDelta_bit_ne_zero j hj
  have hkick : ckDelta 0 ((1 : Byte) <<< j) ≠ 0 := fun h => hlives (by rw [h, ckDelta_zero_zero])
  rw [ckDeltas_append, ckDeltas_zero_rep, ckDeltas_cons]
  exact ckDeltas_rep_ne_zero hkick hlives after

/-- One changed byte, as a pattern of changes. -/
theorem set_xor_eq_zipWith {data : Buffer} {i : Nat} (hi : i < data.length) (e : Byte) :
    data.set i (data.getD i 0 ^^^ e) =
      List.zipWith (· ^^^ ·) data (rep 0 i ++ e :: rep 0 (data.length - (i + 1))) := by
  induction data generalizing i with
  | nil => cases hi
  | cons b data ih =>
    cases i with
    | zero => exact congrArg (_ :: ·) (zipWith_xor_rep_zero data).symm
    | succ i =>
      rw [List.set_cons_succ, List.getD_cons_succ, ih (Nat.lt_of_succ_lt_succ hi), List.length_cons,
        Nat.add_sub_add_right, rep_succ, List.cons_append, List.zipWith_cons_cons, xor_zero_byte]

/-- Flipping one bit changes the checksum of a buffer of any length (R124). -/
theorem ck_set_bit_ne {data : Buffer} {i j : Nat} (hi : i < data.length) (hj : j < 8) :
    ck (data.set i (data.getD i 0 ^^^ ((1 : Byte) <<< j))) ≠ ck data := by
  have hlen : data.length = (rep 0 i ++ ((1 : Byte) <<< j) :: rep 0 (data.length - (i + 1))).length := by
    simp only [List.length_append, List.length_cons, List.length_replicate]
    omega
  rw [set_xor_eq_zipWith hi, ck_zipWith_xor hlen]
  exact fun h => ckDeltas_bit_ne_zero hj _ _ ((BitVec.xor_right_inj (ck data)).1 (h.trans (xor_zero_byte _).symm))

/-- Settles O23. -/
theorem checksumSeesEverySingleBitChange : Obligations.ChecksumSeesEverySingleBitChange :=
  fun data s s' h => ⟨ck data, exec_csum_of_length h s, exec_csum_of_length h s', fun _ _ hi hj =>
    ⟨_, exec_csum_of_length (List.length_set.trans h) s', (ck_set_bit_ne (h ▸ hi) hj).symm⟩⟩

end Sys2Proof.Machine
end

section
/-! A record deciphered with a changed key: which bytes change (R110), and what the checksum sees of it (R126). -/

namespace Sys2Proof.Machine

/-! ## The stream of a key -/

/-- `n` bytes of the cycled key, from key position `i` on (R110). -/
def keyStream (k : Buffer) (i n : Nat) : Buffer := xorFrom k i (rep 0 n)

@[simp] theorem keyStream_length (k : Buffer) (i n : Nat) : (keyStream k i n).length = n := by simp [keyStream]

theorem keyStream_succ (k : Buffer) (i n : Nat) : keyStream k i (n + 1) = k.getD (i % k.length) 0 :: keyStream k (i + 1) n := by
  rw [keyStream, rep_succ, xorFrom, BitVec.xor_comm, xor_zero_byte, ← keyStream]

theorem keyStream_add (k : Buffer) (i m n : Nat) : keyStream k i (m + n) = keyStream k i m ++ keyStream k (i + m) n := by
  rw [keyStream, rep, List.replicate_add, xorFrom_append, List.length_replicate, ← keyStream, ← keyStream]

theorem keyStream_one (k : Buffer) (i : Nat) : keyStream k i 1 = [k.getD (i % k.length) 0] := keyStream_succ k i 0

theorem keyStream_add_length (k : Buffer) (i n : Nat) : keyStream k (i + k.length) n = keyStream k i n := by
  induction n generalizing i with
  | zero => rfl
  | succ n ih => rw [keyStream_succ, keyStream_succ, Nat.add_mod_right, Nat.add_right_comm, ih]

theorem keyStream_getElem? (k : Buffer) (i : Nat) {n m : Nat} (hm : m < n) :
    (keyStream k i n)[m]? = some (k.getD ((i + m) % k.length) 0) := by
  have hzero : (rep 0 n).getD m 0 = 0 := List.getD_replicate 0 hm
  rw [keyStream, xorFrom_getElem? k i (by rwa [List.length_replicate]), hzero, BitVec.xor_comm, xor_zero_byte]

/-! ## A changed key -/

/-- The change of byte `j` of a five-byte key by `d`, as a key itself. -/
def keyChange (j : Nat) (d : Byte) : Buffer := (rep 0 5).set j d

@[simp] theorem keyChange_length (j : Nat) (d : Byte) : (keyChange j d).length = 5 := by simp [keyChange]

theorem keyChange_getD (j : Nat) (d : Byte) {m : Nat} (hm : m < 5) : (keyChange j d).getD m 0 = if m = j then d else 0 := by
  by_cases h : m = j
  · subst h
    simp [keyChange, hm]
  · simp [keyChange, h, Ne.symm h]

theorem getD_set_xor {key : Buffer} (hk : key.length = 5) (j : Nat) (d : Byte) {m : Nat} (hm : m < 5) :
    (key.set j (key.getD j 0 ^^^ d)).getD m 0 = key.getD m 0 ^^^ (keyChange j d).getD m 0 := by
  rw [keyChange_getD j d hm]
  by_cases h : m = j
  · subst h
    simp [hk, hm]
  · simp [h, Ne.symm h]

/-- Deciphering with a changed key leaves the stream of the change on the data. -/
theorem xorFrom_set_xorFrom {key : Buffer} (hk : key.length = 5) (j : Nat) (d : Byte) (i : Nat) (x : Buffer) :
    xorFrom (key.set j (key.getD j 0 ^^^ d)) i (xorFrom key i x) =
      List.zipWith (· ^^^ ·) x (keyStream (keyChange j d) i x.length) := by
  induction x generalizing i with
  | nil => rfl
  | cons b x ih =>
    rw [xorFrom, xorFrom, ih, List.length_cons, keyStream_succ, List.zipWith_cons_cons, List.length_set, hk, keyChange_length,
      getD_set_xor hk j d (Nat.mod_lt i (by omega)), BitVec.xor_assoc b, ← BitVec.xor_assoc (key.getD _ 0), BitVec.xor_self,
      BitVec.zero_xor]

/-! ## What the checksum sees of it -/

/-- A changed byte shows in the state after it. -/
theorem ckDelta_of_ne_zero : ∀ e : Byte, e ≠ 0 → ckDelta 0 e ≠ 0 := by decide +kernel

/-- Five unchanged bytes act on a change of the low four bits as an element of order three of GF(16): `A(A + 1) = 1`. -/
theorem ckDeltas_five_of_lt : ∀ y : Byte, y < 16 → ckDeltas (ckDeltas y (rep 0 5) ^^^ y) (rep 0 5) = y := by decide +kernel

/-- Three equal periods of five changes, the last of them zero, cancel out (R126). -/
theorem ckDeltas_three_periods {v : Buffer} (hv : v.length = 5) {w : Buffer} (hw : v = w ++ [0]) :
    ckDeltas 0 (v ++ (v ++ v)) = 0 := by
  have hlow : ckDeltas 0 v < 16 := by
    rw [hw, ckDeltas_append]
    exact ckDelta_zero_lt _
  have hperiod : ∀ d, ckDeltas d v = ckDeltas d (rep 0 5) ^^^ ckDeltas 0 v := fun d => by
    rw [← hv, ← ckDeltas_xor, xor_zero_byte]
  rw [ckDeltas_append, ckDeltas_append, hperiod (ckDeltas 0 v), hperiod (_ ^^^ _), ckDeltas_five_of_lt _ hlow]
  exact BitVec.xor_self

/-- Three turns of a five-byte key cancel out when they end with a zero. -/
theorem ckDeltas_keyStream_fifteen {k : Buffer} (hk : k.length = 5) {i : Nat} (hlast : k.getD ((i + 4) % 5) 0 = 0) :
    ckDeltas 0 (keyStream k i 15) = 0 := by
  have hturn : ∀ m, keyStream k i (5 + m) = keyStream k i 5 ++ keyStream k i m := fun m => by
    rw [keyStream_add, ← hk, keyStream_add_length]
  have hzero : keyStream k i 5 = keyStream k i 4 ++ [0] := by
    rw [keyStream_add k i 4 1, keyStream_one, hk, hlast]
  rw [hturn 10, hturn 5]
  exact ckDeltas_three_periods (keyStream_length k i 5) hzero

theorem ckDeltas_keyStream_mul_fifteen {k : Buffer} (hk : k.length = 5) {i : Nat} (hlast : k.getD ((i + 4) % 5) 0 = 0)
    (n : Nat) : ckDeltas 0 (keyStream k i (15 * n)) = 0 := by
  induction n generalizing i with
  | zero => rfl
  | succ n ih =>
    have hnext : (i + 15 + 4) % 5 = (i + 4) % 5 := by omega
    rw [Nat.mul_succ, Nat.add_comm, keyStream_add, ckDeltas_append, ckDeltas_keyStream_fifteen hk hlast,
      ih (by rwa [hnext])]

/-- The 256 data bytes of a record meet 51 turns of the key and one byte more, key byte 3: of a change of another byte the
checksum sees nothing, of a change of this one its last turn only (R126). -/
theorem ckDeltas_keyChange (j : Nat) (d : Byte) :
    ckDeltas 0 (keyStream (keyChange j d) 3 256) = if j = 3 then ckDelta 0 d else 0 := by
  have hlen := keyChange_length j d
  by_cases h : j = 3
  · have hlast : (keyChange j d).getD ((3 + 4) % 5) 0 = 0 := by rw [keyChange_getD j d (by omega), if_neg (by omega)]
    have hthree : (keyChange j d).getD ((3 + 255) % 5) 0 = d := by rw [keyChange_getD j d (by omega), if_pos (by omega)]
    rw [if_pos h, keyStream_add _ 3 255 1, ckDeltas_append, ckDeltas_keyStream_mul_fifteen hlen hlast 17, keyStream_one, hlen,
      hthree]
    rfl
  · have hthree : (keyChange j d).getD (3 % 5) 0 = 0 := by rw [keyChange_getD j d (by omega), if_neg (by omega)]
    rw [if_neg h, keyStream_add _ 3 1 255, ckDeltas_append, keyStream_one, hlen, hthree, ckDeltas_cons, ckDelta_zero_zero]
    exact ckDeltas_keyStream_mul_fifteen (i := 4) hlen hthree 17

/-! ## A record under a changed key -/

/-- A record enciphered with a key and deciphered with byte `j` of the key changed by `d`. -/
def misread (key : Buffer) (j : Nat) (d : Byte) (record : Buffer) : Buffer :=
  xorFrom (key.set j (key.getD j 0 ^^^ d)) 0 (xorFrom key 0 record)

theorem misread_getElem? {key : Buffer} (hk : key.length = 5) (j : Nat) (d : Byte) {record : Buffer} {i : Nat}
    (hi : i < record.length) : (misread key j d record)[i]? = some (record.getD i 0 ^^^ if i % 5 = j then d else 0) := by
  rw [misread, xorFrom_set_xorFrom hk, List.getElem?_zipWith, keyStream_getElem? _ 0 hi, Nat.zero_add, keyChange_length,
    keyChange_getD j d (Nat.mod_lt i (by omega)), List.getElem?_eq_getElem hi, List.getD_eq_getElem _ _ hi]

theorem misread_drop {key : Buffer} (hk : key.length = 5) (j : Nat) (d : Byte) (sub : Half) (k : Byte) (data : Buffer) :
    (misread key j d (recordBytesOf sub k data)).drop 3 =
      List.zipWith (· ^^^ ·) data (keyStream (keyChange j d) 3 data.length) := by
  have hstream : (keyStream (keyChange j d) 0 (data.length + 3)).drop 3 = keyStream (keyChange j d) 3 data.length := by
    rw [Nat.add_comm, keyStream_add, List.drop_left' (keyStream_length _ _ _), Nat.zero_add]
  rw [misread, xorFrom_set_xorFrom hk, List.drop_zipWith, recordBytesOf_length, hstream]
  rfl

/-- The answer of CSUM on the data of a misread record. -/
theorem exec_csum_misread {key : Buffer} (hk : key.length = 5) (j : Nat) (d : Byte) (sub : Half) (k : Byte) {data : Buffer}
    (hd : data.length = 256) (s : State) : exec (.csum ((misread key j d (recordBytesOf sub k data)).drop 3)) s =
      .next (s.answered (.byte (ck data ^^^ if j = 3 then ckDelta 0 d else 0))) := by
  have hlen : data.length = (keyStream (keyChange j d) 3 256).length := by rw [hd, keyStream_length]
  rw [misread_drop hk, hd, exec_csum_of_length (by rw [List.length_zipWith, ← hlen, hd, Nat.min_self]), ck_zipWith_xor hlen,
    ckDeltas_keyChange]

theorem exec_xork_misread {key : Buffer} (hk : key.length = 5) (j : Nat) (d : Byte) (record : Buffer) (s : State) :
    exec (.xork (key.set j (key.getD j 0 ^^^ d)) (xorFrom key 0 record)) s =
      .next (s.answered (.bytes (misread key j d record))) :=
  exec_xork_of_ne (List.ne_nil_of_length_pos (by rw [List.length_set, hk]; omega)) _ s

/-- The comparison passes exactly when the change meets neither the checksum byte nor the last byte of the data. -/
theorem misread_passes_iff {j : Nat} (hj : j < 5) {d : Byte} (hd : d ≠ 0) (c : Byte) :
    (c ^^^ (if j = 3 then ckDelta 0 d else 0) = c ^^^ (if 2 = j then d else 0)) ↔ j = 0 ∨ j = 1 ∨ j = 4 := by
  rw [BitVec.xor_right_inj]
  by_cases h3 : j = 3
  · rw [if_pos h3, if_neg (by omega)]
    exact iff_of_false (ckDelta_of_ne_zero d hd) (by omega)
  · rw [if_neg h3]
    by_cases h2 : 2 = j
    · rw [if_pos h2]
      exact iff_of_false hd.symm (by omega)
    · rw [if_neg h2]
      exact iff_of_true rfl (by omega)

theorem midiKeyB_eq_set : Config.midiKeyB = Config.midiKeyA.set 4 (Config.midiKeyA.getD 4 0 ^^^ 0x06) := by decide

/-- Settles O24: the known keys differ in byte 4, one of those whose change the checksum does not see. -/
theorem checksumIsBlindToTheKnownKeys : Obligations.ChecksumIsBlindToTheKnownKeys := by
  refine ⟨fun sub data s hdata => ?_, fun key j d sub data s hk hj hd hdata => ?_⟩
  · have hA : Config.midiKeyA.length = 5 := rfl
    have hlen : (recordBytesOf sub (ck data) data).length = 259 := by rw [recordBytesOf_length, hdata]
    rw [midiKeyB_eq_set]
    refine ⟨_, exec_xork_misread hA 4 0x06 _ s, fun i hi => ?_, ?_⟩
    · rw [misread_getElem? hA 4 _ (hlen ▸ hi)]
      split
      · rfl
      · rw [xor_zero_byte]
    · rw [exec_csum_misread hA 4 _ sub _ hdata, if_neg (by omega), xor_zero_byte]
      rfl
  · have hlen : 2 < (recordBytesOf sub (ck data) data).length := by rw [recordBytesOf_length]; omega
    refine ⟨_, _, exec_xork_misread hk j d _ s, exec_csum_misread hk j d sub _ hdata s, ?_⟩
    rw [List.getD_eq_getElem?_getD, misread_getElem? hk j d hlen]
    exact misread_passes_iff hj hd (ck data)

end Sys2Proof.Machine
end

section
/-! U4: BAC over a block as a key stream over words (R132), its involution (R133), and what the key update keeps (R131). -/

namespace Sys2Proof.Machine

/-! ## The key update -/

theorem and_one_eq_one_iff (k : Half) : k &&& 1 = 1 ↔ k.getLsbD 0 = true := by
  rw [← BitVec.toNat_inj, BitVec.getLsbD, Nat.testBit_zero]
  simp [Nat.and_one_is_mod]

/-- The two steps of the update, with the condition as a bit (R131). -/
theorem keyUpdate_of_bit (k : Half) : keyUpdate k = (if k.getLsbD 0 = true then k ^^^ 0x8005 else k) >>> 1 := by
  simp only [keyUpdate, and_one_eq_one_iff, bacPoly]

/-- The update in closed form (R131): the shift drops the low bit of 0x8005. -/
theorem keyUpdate_eq_xor (k : Half) : keyUpdate k = (k >>> 1) ^^^ (if k.getLsbD 0 = true then 0x4002 else 0) := by
  rw [keyUpdate_of_bit]
  split
  · rw [BitVec.ushiftRight_xor_distrib]
    rfl
  · exact BitVec.xor_zero.symm

@[simp] theorem keyUpdate_getLsbD_fifteen (k : Half) : (keyUpdate k).getLsbD 15 = false := by
  rw [keyUpdate, BitVec.getLsbD_ushiftRight]
  exact BitVec.getLsbD_of_ge _ _ (by omega)

theorem keyUpdate_iterate_getLsbD_fifteen (k : Half) (n : Nat) : (keyUpdate^[n + 1] k).getLsbD 15 = false := by
  rw [Function.iterate_succ_apply', keyUpdate_getLsbD_fifteen]

/-- With bit 15 clear, an odd key gets bit 14 from the mask, and an even one keeps its set bit under the shift (R131). -/
theorem keyUpdate_ne_zero {k : Half} (hk : k ≠ 0) (h15 : k.getLsbD 15 = false) : keyUpdate k ≠ 0 := by
  rw [keyUpdate_eq_xor]
  by_cases hodd : k.getLsbD 0 = true
  · have h14 : ((k >>> 1) ^^^ (0x4002 : Half)).getLsbD 14 = true := by
      rw [BitVec.getLsbD_xor, BitVec.getLsbD_ushiftRight, h15]
      rfl
    rw [if_pos hodd]
    intro hzero
    rw [hzero] at h14
    contradiction
  · rw [if_neg hodd]
    intro hzero
    apply hk
    apply BitVec.eq_of_getLsbD_eq
    intro i hi
    cases i with
    | zero => simpa using hodd
    | succ i => simpa [Nat.add_comm] using congrArg (BitVec.getLsbD · i) hzero

theorem keyUpdate_iterate_ne_zero {k : Half} (hk : k ≠ 0) (h15 : k.getLsbD 15 = false) (n : Nat) :
    keyUpdate^[n] k ≠ 0 := by
  induction n generalizing k with
  | zero => exact hk
  | succ n ih =>
    rw [Function.iterate_succ_apply]
    exact ih (keyUpdate_ne_zero hk h15) (keyUpdate_getLsbD_fifteen k)

/-! ## The initial key -/

theorem keyInit_ne_zero (base : Half) : keyInit base ≠ 0 := by
  rw [keyInit]
  split
  · decide
  · assumption

theorem keyInit_getLsbD_fifteen {base : Half} (h : base.toNat < 0x8000) : (keyInit base).getLsbD 15 = false := by
  rw [keyInit]
  split
  · decide
  · exact Nat.testBit_lt_two_pow h

/-! ## The words of a block -/

/-- Past `w` words, the rest of the buffer goes on under the key updated `w` times (R132). -/
theorem cipherWords_drop (k : Half) (x : Buffer) (w : Nat) :
    (cipherWords k x).drop (2 * w) = cipherWords (keyUpdate^[w] k) (x.drop (2 * w)) := by
  induction w generalizing k x with
  | zero => rfl
  | succ w ih =>
    match x with
    | [] => rfl
    | [_] => rfl
    | lo :: hi :: rest => exact ih (keyUpdate k) rest

/-- Byte `i` of word `w` meets byte `i` of the key, low byte first (R132). -/
theorem cipherWords_getElem? (k : Half) {x : Buffer} {w i : Nat} (hw : 2 * w + 1 < x.length) (hi : i < 2) :
    (cipherWords k x)[2 * w + i]? =
      some (x.getD (2 * w + i) 0 ^^^ (keyUpdate^[w + 1] k).extractLsb' (8 * i) 8) := by
  have hword : x.drop (2 * w) = x[2 * w] :: x[2 * w + 1] :: x.drop (2 * w + 2) := by
    rw [List.drop_eq_getElem_cons (by omega), List.drop_eq_getElem_cons hw]
  rw [← List.getElem?_drop, cipherWords_drop, hword, cipherWords, ← Function.iterate_succ_apply' keyUpdate,
    List.getD_eq_getElem _ _ (by omega)]
  interval_cases i <;> rfl

/-- The cipher is its own inverse, from every key (R133). -/
theorem cipherWords_cipherWords (k : Half) (x : Buffer) : cipherWords k (cipherWords k x) = x := by
  induction k, x using cipherWords.induct with
  | case1 k lo hi rest ih =>
    rw [cipherWords, cipherWords, ih, BitVec.xor_assoc, BitVec.xor_assoc, BitVec.xor_self, BitVec.xor_self,
      BitVec.xor_zero, BitVec.xor_zero]
  | case2 k short h =>
    have hshort : cipherWords k short = short := by rw [cipherWords]; exact h
    rw [hshort, hshort]

theorem cipher_cipher (base : Half) (blk : Buffer) : cipher base (cipher base blk) = blk := cipherWords_cipherWords _ _

/-- Bit 7 of an odd-offset byte would meet bit 15 of an updated key, which is clear (R131). -/
theorem cipher_getD_odd_getLsbD_seven (base : Half) {blk : Buffer} {w : Nat} (hw : 2 * w + 1 < blk.length) :
    ((cipher base blk).getD (2 * w + 1) 0).getLsbD 7 = (blk.getD (2 * w + 1) 0).getLsbD 7 := by
  have hkey : ((keyUpdate^[w + 1] (keyInit base)).extractLsb' 8 8).getLsbD 7 = false := by
    rw [BitVec.getLsbD_extractLsb']
    simpa using keyUpdate_iterate_getLsbD_fifteen (keyInit base) w
  rw [List.getD_eq_getElem?_getD, cipher, cipherWords_getElem? _ hw (by omega), Option.getD_some, BitVec.getLsbD_xor,
    Nat.mul_one, hkey, Bool.xor_false]

/-! ## The operation -/

theorem exec_bac (base : Half) (blk : Buffer) (s : State) : exec (.bac base blk) s = deliver (bac base blk) .bytes s := rfl

theorem exec_bac_of_length {blk : Buffer} (h : blk.length = 4096) (base : Half) (s : State) :
    exec (.bac base blk) s = .next (s.answered (.bytes (cipher base blk))) := by
  rw [exec_bac, bac, if_pos h, deliver_value]

theorem exec_bac_of_length_ne {blk : Buffer} (h : blk.length ≠ 4096) (base : Half) (s : State) :
    exec (.bac base blk) s = .refused (.blockLength blk.length) := by
  rw [exec_bac, bac, if_neg h, deliver_refuse]

/-- Settles O26: `K w` is the initial key updated `w` times. -/
theorem bacXorsWordsWithTheKeyStream : Obligations.BacXorsWordsWithTheKeyStream := by
  refine fun base blk s => ⟨rfl, fun hlen => ?_, fun hlen => exec_bac_of_length_ne hlen base s⟩
  refine ⟨fun w => keyUpdate^[w] (keyInit base), cipher base blk, rfl, fun w => ?_, exec_bac_of_length hlen base s,
    by rw [cipher_length, hlen], fun w hw => ⟨?_, ?_⟩⟩
  · exact (Function.iterate_succ_apply' keyUpdate w _).trans (keyUpdate_of_bit _)
  · rw [BitVec.setWidth_eq_extractLsb' (by omega)]
    exact cipherWords_getElem? (keyInit base) (by omega) (i := 0) (by omega)
  · rw [BitVec.setWidth_ushiftRight_eq_extractLsb]
    exact cipherWords_getElem? (keyInit base) (by omega) (i := 1) (by omega)

/-- Settles O27. -/
theorem bacTwiceIsTheIdentity : Obligations.BacTwiceIsTheIdentity := by
  intro base blk s hlen
  have hout : (cipher base blk).length = 4096 := by rw [cipher_length, hlen]
  have hback := exec_bac_of_length hout base s
  rw [cipher_cipher] at hback
  exact ⟨cipher base blk, exec_bac_of_length hlen base s, hback⟩

/-- Settles O28. -/
theorem cipherKeyStaysFifteenBitsAndNonzero : Obligations.CipherKeyStaysFifteenBitsAndNonzero :=
  ⟨keyUpdate_of_bit, keyUpdate_eq_xor, fun base n => keyUpdate_iterate_getLsbD_fifteen (keyInit base) n,
    fun base n hbase => keyUpdate_iterate_ne_zero (keyInit_ne_zero base) (keyInit_getLsbD_fifteen hbase) n,
    fun base blk s hlen => ⟨cipher base blk, exec_bac_of_length hlen base s,
      fun _ hw => cipher_getD_odd_getLsbD_seven base (by omega)⟩⟩

end Sys2Proof.Machine
end

section
/-! U5: the rows of the parser's transition table (R147), a scan as reset, feed and end (R146), built events read back (R149),
and the detector's verdict (R150). -/

namespace Sys2Proof

/-! ## The bytes of a built event (R70, R148) -/

/-- What stands between the start and the end byte of a built event. -/
def Event.body (e : Event) : Buffer :=
  Config.vendor ++ sevenByte e.deviceId :: sevenByte e.modelId :: sevenByte e.command :: e.payload

theorem Event.bytes_eq_body (e : Event) : e.bytes = 0xF0 :: (e.body ++ [0xF7]) := by
  simp [Event.bytes, eventBytesOf, Event.body]

theorem clean_sevenByte (v : Seven) : clean (sevenByte v) = true := by simp

theorem sevenByte_toNat_lt (v : Seven) : (sevenByte v).toNat < 0x80 := (clean_iff_toNat_lt _).1 (clean_sevenByte v)

/-- No byte of the vendor tag, the header or the payload has its high bit set (R71). -/
theorem Event.clean_of_mem_body {e : Event} (he : e.wellFormed = true) : ∀ b ∈ e.body, clean b = true := by
  have hvendor : ∀ b ∈ Config.vendor, clean b = true := by decide
  have hpayload : ∀ b ∈ e.payload, clean b = true := List.all_eq_true.1 he
  refine List.forall_mem_append.2 ⟨hvendor, ?_⟩
  simp only [List.forall_mem_cons]
  exact ⟨clean_sevenByte _, clean_sevenByte _, clean_sevenByte _, hpayload⟩

end Sys2Proof

namespace Sys2Proof.Machine

/-! ## The instructions of U5 -/

theorem exec_envReset (s : State) : exec .envReset s = .next ((resetParser s).answered .done) := rfl

theorem exec_envFeed (b : Byte) (s : State) :
    exec (.envFeed b) s = .next ((feedByte b s).1.answered (.event (feedByte b s).2)) := rfl

theorem exec_envEnd (s : State) : exec .envEnd s = .next ((endInput s).answered .done) := rfl

theorem exec_envScan (buf : Buffer) (s : State) :
    exec (.envScan buf) s = .next ((scan buf s).1.answered (.events (scan buf s).2)) := rfl

theorem exec_envBuild (d m c : Byte) (payload : Buffer) (s : State) :
    exec (.envBuild d m c payload) s = deliver (buildEvent d m c payload) .bytes s := rfl

theorem exec_envDetect (buf : Buffer) (s : State) : exec (.envDetect buf) s = .next (s.answered (.verdict (detect buf))) := rfl

/-- Settles O29. -/
theorem envResetEmptiesTheParser : Obligations.EnvResetEmptiesTheParser :=
  fun s => ⟨rfl, exec_envReset s⟩

/-! ## The header of an event (R144) -/

theorem header_vendor_append (d m c : Byte) (payload : Buffer) (s : State) :
    header (Config.vendor ++ d :: m :: c :: payload) s =
      (s, some ⟨d.setWidth 7, m.setWidth 7, c.setWidth 7, payload⟩) := rfl

theorem header_of_wrongVendor {body : Buffer} (h : body.take 3 ≠ Config.vendor) (s : State) :
    header body s = (s.skipped (.malformedEnvelope .wrongVendor body), none) := if_neg h

theorem header_of_short {body : Buffer} (h : body.take 3 = Config.vendor) (hlen : body.length < 6) (s : State) :
    header body s = (s.skipped (.malformedEnvelope .truncatedHeader body), none) := by
  rw [header, if_pos h]
  split
  · rename_i hrest
    have hlong := congrArg List.length hrest
    simp only [List.length_drop, List.length_cons] at hlong
    omega
  · rfl

/-! ## The rows of the table (R147) -/

theorem finalize_end (s : State) : finalize 0xF7 s = header s.acc { s with st := .searching, acc := [] } := rfl

/-- A terminator 0xF0 opens the next event, any other but 0xF7 leaves the parser searching (R143). -/
theorem finalize_of_ne {t : Byte} (ht : t ≠ 0xF7) (s : State) : finalize t s =
    ({ s with st := if t = 0xF0 then .inEvent else .searching, acc := [] }.skipped
      (.malformedEnvelope (.badTerminator t) s.acc), none) := by
  have hbad : ¬ terminatorOk t = true := by rw [terminatorOk, decide_eq_true_eq]; exact ht
  rw [finalize, if_neg hbad]

theorem feedByte_start {s : State} (hst : s.st = .searching) :
    feedByte 0xF0 s = ({ s with st := .inEvent, acc := [] }, none) := by
  rw [feedByte, hst]
  rfl

theorem feedByte_garbage {b : Byte} {s : State} (hst : s.st = .searching) (hb : b ≠ 0xF0) :
    feedByte b s = (s.skipped (.trailingGarbage b), none) := by
  rw [feedByte, hst]
  exact if_neg hb

theorem feedByte_of_clean {b : Byte} {s : State} (hst : s.st = .inEvent) (hb : clean b = true) :
    feedByte b s = ({ s with acc := s.acc ++ [b] }, none) := by
  rw [feedByte, hst]
  exact if_pos hb

/-- A byte with its high bit set ends the event (R142). -/
theorem feedByte_of_not_clean {b : Byte} {s : State} (hst : s.st = .inEvent) (hb : ¬ clean b = true) :
    feedByte b s = finalize b { s with st := .finalize } := by
  rw [feedByte, hst]
  exact if_neg hb

theorem feedByte_end {s : State} (hst : s.st = .inEvent) :
    feedByte 0xF7 s = header s.acc { s with st := .searching, acc := [] } := by
  rw [feedByte_of_not_clean hst (by decide), finalize_end]

theorem endInput_inEvent {s : State} (hst : s.st = .inEvent) :
    endInput s = { s with st := .searching, acc := [] }.skipped (.malformedEnvelope .truncatedEvent s.acc) := by
  rw [endInput, hst]

theorem endInput_searching {s : State} (hst : s.st = .searching) : endInput s = s := by
  rw [endInput, hst]

/-- Settles O30, a row at a time; at 0xF7 the header test decides which of its three outcomes it is. -/
theorem parserFollowsTheTransitionTable : Obligations.ParserFollowsTheTransitionTable := by
  intro s b
  refine ⟨?start, ?garbage, ?payload, ?endByte, ?restart, ?badTerminator, ?endInEvent, ?endOutside⟩
  case start =>
    rintro hst rfl
    rw [exec_envFeed, feedByte_start hst]
    rfl
  case garbage =>
    intro hst hb
    rw [exec_envFeed, feedByte_garbage hst hb]
    rfl
  case payload =>
    intro hst hb
    rw [exec_envFeed, feedByte_of_clean hst ((clean_iff_toNat_lt b).2 hb)]
    rfl
  case endByte =>
    rintro hst rfl
    rw [exec_envFeed, feedByte_end hst]
    refine ⟨fun d m c payload hacc => ?_, fun hvendor => ?_, fun hvendor hlen => ?_⟩
    · rw [hacc, header_vendor_append]
      rfl
    · rw [header_of_wrongVendor hvendor]
      rfl
    · rw [header_of_short hvendor hlen]
      rfl
  case restart =>
    rintro hst rfl
    rw [exec_envFeed, feedByte_of_not_clean hst (by decide), finalize_of_ne (by decide)]
    rfl
  case badTerminator =>
    intro hst hhigh hstart hend
    have hb : ¬ clean b = true := by rw [clean_iff_toNat_lt]; omega
    rw [exec_envFeed, feedByte_of_not_clean hst hb, finalize_of_ne hend, if_neg hstart]
    rfl
  case endInEvent =>
    intro hst
    rw [exec_envEnd, endInput_inEvent hst]
    rfl
  case endOutside =>
    intro hst
    rw [exec_envEnd, endInput_searching hst]
    rfl

/-! ## The answer register is no part of the parser -/

theorem header_answered (body : Buffer) (s : State) (a : Answer) :
    header body (s.answered a) = ((header body s).1.answered a, (header body s).2) := by
  unfold header
  split
  · split <;> rfl
  · rfl

theorem finalize_answered (t : Byte) (s : State) (a : Answer) :
    finalize t (s.answered a) = ((finalize t s).1.answered a, (finalize t s).2) := by
  unfold finalize
  split
  · exact header_answered s.acc { s with st := .searching, acc := [] } a
  · rfl

theorem feedByte_answered (b : Byte) (s : State) (a : Answer) :
    feedByte b (s.answered a) = ((feedByte b s).1.answered a, (feedByte b s).2) := by
  unfold feedByte
  rw [answered_st]
  split
  · split <;> rfl
  · split
    · rfl
    · exact finalize_answered b { s with st := .finalize } a
  · exact finalize_answered b s a

theorem feedAll_answered (bs : Buffer) (s : State) (a : Answer) :
    feedAll bs (s.answered a) = ((feedAll bs s).1.answered a, (feedAll bs s).2) := by
  induction bs generalizing s with
  | nil => rfl
  | cons b bs ih => simp only [feedAll_cons, feedByte_answered, ih]

theorem endInput_answered (s : State) (a : Answer) : endInput (s.answered a) = (endInput s).answered a := by
  unfold endInput
  rw [answered_st]
  split <;> rfl

/-! ## A scan as its steps (R146) -/

theorem execAll_cons {i : Instr} {s t : State} (h : exec i s = .next t) (is : List Instr) :
    execAll (i :: is) s = (execAll is t).map fun r => (r.1, t.answer :: r.2) := by
  rw [execAll, h]

/-- The bytes fed one instruction each and then the end: the state a scan reaches, and the events of a scan in order. -/
theorem execAll_feeds_end (buf : Buffer) (s : State) :
    ∃ as, execAll (buf.map Instr.envFeed ++ [Instr.envEnd]) s = some ((endInput (feedAll buf s).1).answered .done, as) ∧
      as.filterMap Answer.event? = (feedAll buf s).2 := by
  induction buf generalizing s with
  | nil => exact ⟨[.done], execAll_cons (exec_envEnd s) [], rfl⟩
  | cons b bs ih =>
    obtain ⟨as, hrun, hevents⟩ := ih ((feedByte b s).1.answered (.event (feedByte b s).2))
    rw [feedAll_answered] at hrun hevents
    refine ⟨.event (feedByte b s).2 :: as, ?_, ?_⟩
    · rw [List.map_cons, List.cons_append, execAll_cons (exec_envFeed b s), hrun, endInput_answered]
      rfl
    · rw [feedAll_cons, ← hevents]
      cases (feedByte b s).2 <;> rfl

/-- Settles O31: the answers that the single instructions leave are read by none of them. -/
theorem scanIsResetFeedEnd : Obligations.ScanIsResetFeedEnd := by
  intro buf s
  obtain ⟨as, hrun, hevents⟩ := execAll_feeds_end buf ((resetParser s).answered .done)
  rw [feedAll_answered, endInput_answered] at hrun
  rw [feedAll_answered] at hevents
  refine ⟨rfl, (scan buf s).1.answered .done, .done :: as, ?_, ?_⟩
  · rw [List.cons_append, execAll_cons (exec_envReset s), hrun]
    rfl
  · have hscan : (Answer.done :: as).filterMap Answer.event? = (scan buf s).2 := hevents
    rw [hscan]
    exact exec_envScan buf s

/-! ## Events built (R148) and read back (R149) -/

/-- ENV.BUILD refuses exactly the calls that break the guarantee (R148). -/
theorem buildEvent_eq (d m c : Byte) (payload : Buffer) : buildEvent d m c payload =
    if d.toNat < 0x80 ∧ m.toNat < 0x80 ∧ c.toNat < 0x80 ∧ ∀ b ∈ payload, b.toNat < 0x80
      then .value (eventBytesOf d m c payload) else .refuse .uncleanByte := by
  simp only [buildEvent, Bool.and_eq_true, List.all_eq_true, clean_iff_toNat_lt, and_assoc]

theorem buildEvent_of_wellFormed {e : Event} (he : e.wellFormed = true) :
    buildEvent (sevenByte e.deviceId) (sevenByte e.modelId) (sevenByte e.command) e.payload = .value e.bytes := by
  rw [buildEvent_eq]
  exact if_pos ⟨sevenByte_toNat_lt _, sevenByte_toNat_lt _, sevenByte_toNat_lt _, e.wellFormed_iff.1 he⟩

/-- Settles O33. -/
theorem envBuildEmitsTheEvent : Obligations.EnvBuildEmitsTheEvent := by
  intro d m c payload s
  refine ⟨rfl, fun hclean => ⟨eventBytesOf d m c payload, rfl, ?_, ?_⟩, fun hunclean => ?_⟩
  · simp [eventBytesOf]
  · rw [exec_envBuild, buildEvent_eq, if_pos hclean]
    rfl
  · rw [exec_envBuild, buildEvent_eq, if_neg hunclean, deliver_refuse]

/-- Clean bytes inside an event are accumulated (R141). -/
theorem feedAll_of_clean {bs : Buffer} {s : State} (hst : s.st = .inEvent) (hbs : ∀ b ∈ bs, clean b = true) :
    feedAll bs s = ({ s with acc := s.acc ++ bs }, []) := by
  induction bs generalizing s with
  | nil => simp
  | cons b bs ih =>
    obtain ⟨hb, hrest⟩ := List.forall_mem_cons.1 hbs
    rw [feedAll_cons, feedByte_of_clean hst hb, ih (s := { s with acc := s.acc ++ [b] }) hst hrest]
    simp

theorem header_body (e : Event) (s : State) : header e.body s = (s, some e) := by
  rw [Event.body, header_vendor_append]
  simp only [setWidth_sevenByte]

/-- A built event leaves the parser as it was and returns the event. -/
theorem feedAll_eventBytes {e : Event} (he : e.wellFormed = true) {s : State} (hst : s.st = .searching) (hacc : s.acc = []) :
    feedAll e.bytes s = (s, [e]) := by
  have hbody := feedAll_of_clean (s := { s with st := .inEvent, acc := [] }) rfl (Event.clean_of_mem_body he)
  rw [Event.bytes_eq_body, feedAll_cons, feedByte_start hst, feedAll_append, hbody, feedAll_cons, feedByte_end rfl,
    List.nil_append, header_body, feedAll_nil, ← hst, ← hacc]
  rfl

theorem feedAll_flatMap_bytes {evs : List Event} (hevs : ∀ e ∈ evs, e.wellFormed = true) {s : State}
    (hst : s.st = .searching) (hacc : s.acc = []) : feedAll (evs.flatMap Event.bytes) s = (s, evs) := by
  induction evs with
  | nil => rfl
  | cons e evs ih =>
    obtain ⟨he, hrest⟩ := List.forall_mem_cons.1 hevs
    rw [List.flatMap_cons, feedAll_append, feedAll_eventBytes he hst hacc, ih hrest]
    rfl

theorem scan_flatMap_bytes {evs : List Event} (hevs : ∀ e ∈ evs, e.wellFormed = true) (s : State) :
    scan (evs.flatMap Event.bytes) s = (resetParser s, evs) := by
  rw [scan, feedAll_flatMap_bytes hevs rfl rfl]
  rfl

/-- Settles O32. -/
theorem builtEventsScanBackInOrder : Obligations.BuiltEventsScanBackInOrder := by
  refine fun evs s hevs => ⟨fun e he => ?_, ?_⟩
  · rw [exec_envBuild, buildEvent_of_wellFormed (hevs e he)]
    rfl
  · rw [exec_envScan, scan_flatMap_bytes hevs]
    rfl

/-! ## The detector (R150) -/

/-- A test of every byte of a slice, by the places the bytes have in the whole buffer. -/
theorem all_slice_iff (x : Buffer) (off len : Nat) (p : Byte → Bool) :
    (slice x off len).all p = true ↔ ∀ j, off ≤ j → j < off + len → ∀ b, x[j]? = some b → p b = true := by
  rw [List.all_eq_true]
  constructor
  · intro h j hlo hhi b hb
    refine h b (List.mem_of_getElem? (i := j - off) ?_)
    rw [slice, List.getElem?_take_of_lt (by omega), List.getElem?_drop, Nat.add_sub_cancel' hlo, hb]
  · intro h b hb
    obtain ⟨i, hi⟩ := List.mem_iff_getElem?.1 hb
    have hlen : i < len := by
      obtain ⟨hlt, -⟩ := List.getElem?_eq_some_iff.1 hi
      exact lt_of_lt_of_le hlt (List.length_take_le _ _)
    rw [slice, List.getElem?_take_of_lt hlen, List.getElem?_drop] at hi
    exact h (off + i) (by omega) (by omega) b hi

theorem detect_iff (buf : Buffer) : detect buf = true ↔
    2 ≤ buf.length ∧ buf[0]? = some 0xF0 ∧ buf[buf.length - 1]? = some 0xF7 ∧
      ∀ j, 1 ≤ j → j + 2 ≤ buf.length → ∀ b, buf[j]? = some b → b.toNat < 0x80 ∨ 0xF0 ≤ b.toNat := by
  simp only [detect, Bool.and_eq_true, decide_eq_true_eq, List.head?_eq_getElem?, List.getLast?_eq_getElem?, all_slice_iff,
    Bool.or_eq_true, and_assoc]
  refine and_congr_right fun hlen => and_congr_right fun _ => and_congr_right fun _ => ?_
  refine forall_congr' fun j => imp_congr_right fun _ => ?_
  have hinterior : j < 1 + (buf.length - 2) ↔ j + 2 ≤ buf.length := by omega
  rw [hinterior]
  rfl

/-- Settles O34. -/
theorem detectVerdictIsTheRule : Obligations.DetectVerdictIsTheRule :=
  fun buf s => ⟨rfl, detect buf, exec_envDetect buf s, detect_iff buf⟩

end Sys2Proof.Machine
end

section
/-! Identification (R166, R167): the trials as one test of a profile, the first match as a search of the registry, and why the
two known keys cannot be told apart (R168). -/

namespace Sys2Proof.Machine

/-! ## The trials -/

/-- Whether the trial with a profile's key matches; below 259 bytes the free value decides (log 13). -/
def trialOk (u : Buffer) (p : Profile) : Bool :=
  if 259 ≤ u.length then checksumOk (recData (xorFrom p.midiKey 0 u)) (recChecksum (xorFrom p.midiKey 0 u))
  else Config.shortTrialMatches p.midiKey u

/-- A trial with a key has a result. -/
theorem trial_of_key {p : Profile} (hk : p.midiKey ≠ []) (u : Buffer) : trial u p = .value (trialOk u p) := by
  rw [trial, xork_of_ne hk]
  rfl

/-- On a whole record, the trial is the comparison of the checksums (R166). -/
theorem trialOk_iff {u : Buffer} (hu : 259 ≤ u.length) (p : Profile) :
    trialOk u p = true ↔ ck (recData (xorFrom p.midiKey 0 u)) = (xorFrom p.midiKey 0 u).getD 2 0 := by
  rw [trialOk, if_pos hu, checksumOk, recChecksum, decide_eq_true_eq]

theorem firstMatch_cons {p : Profile} (hk : p.midiKey ≠ []) (u : Buffer) (ps : List Profile) :
    firstMatch u (p :: ps) = if trialOk u p = true then .value (some p) else firstMatch u ps := by
  rw [firstMatch, trial_of_key hk]
  rfl

/-- "The first profile whose checksum matches wins" (R166). -/
theorem firstMatch_eq_find? {ps : List Profile} (hk : ∀ p ∈ ps, p.midiKey ≠ []) (u : Buffer) :
    firstMatch u ps = .value (ps.find? (trialOk u)) := by
  induction ps with
  | nil => rfl
  | cons p ps ih =>
    obtain ⟨hp, hps⟩ := List.forall_mem_cons.1 hk
    rw [firstMatch_cons hp, ih hps, List.find?_cons]
    cases trialOk u p <;> rfl

/-! ## The fallback -/

theorem fallback_of_unique {m : Seven} {ps : List Profile} {p : Profile} (h : (ps.filter fun q => q.modelId = m) = [p]) :
    fallback m ps = .value p := by
  rw [fallback, h]

theorem fallback_of_not_unique {m : Seven} {ps : List Profile} (h : (ps.filter fun q => q.modelId = m).length ≠ 1) :
    fallback m ps = .raise (.ambiguousProfile m (ps.filter fun q => q.modelId = m).length) := by
  rw [fallback]
  split
  · rename_i hone
    rw [hone] at h
    exact absurd rfl h
  · rfl

/-! ## Identification -/

theorem identify_of_find?_some {u : Buffer} {ps : List Profile} (hk : ∀ p ∈ ps, p.midiKey ≠ []) {p : Profile}
    (h : ps.find? (trialOk u) = some p) (m : Seven) : identify u m ps = .value p := by
  rw [identify, firstMatch_eq_find? hk, h]
  rfl

theorem identify_of_find?_none {u : Buffer} {ps : List Profile} (hk : ∀ p ∈ ps, p.midiKey ≠ [])
    (h : ps.find? (trialOk u) = none) (m : Seven) : identify u m ps = fallback m ps := by
  rw [identify, firstMatch_eq_find? hk, h]
  rfl

/-- A match of the first profile ends the search, whatever the others are. -/
theorem identify_first {u : Buffer} {p : Profile} (hk : p.midiKey ≠ []) (h : trialOk u p = true) (m : Seven)
    (rest : List Profile) : identify u m (p :: rest) = .value p := by
  rw [identify, firstMatch_cons hk, if_pos h]
  rfl

/-- With every profile having a key, identification answers a profile of the registry or raises `AmbiguousProfile`. -/
theorem identify_total {ps : List Profile} (hk : ∀ p ∈ ps, p.midiKey ≠ []) (u : Buffer) (m : Seven) :
    (∃ p ∈ ps, identify u m ps = .value p) ∨ ∃ n, identify u m ps = .raise (.ambiguousProfile m n) := by
  cases hi : identify u m ps with
  | value p => exact .inl ⟨p, identify_value hi, rfl⟩
  | raise r =>
    obtain ⟨n, rfl⟩ := identify_raise hi
    exact .inr ⟨n, rfl⟩
  | refuse e =>
    cases hfind : ps.find? (trialOk u) with
    | some p =>
      rw [identify_of_find?_some hk hfind] at hi
      cases hi
    | none =>
      rw [identify_of_find?_none hk hfind, fallback] at hi
      split at hi <;> cases hi

theorem exec_asmIdent {s : State} (hs : s.asmStatus = .ok) (u : Buffer) (m : Seven) :
    exec (.asmIdent u m) s = deliver (identify u m s.profiles) .profile s := whileOk_of_ok hs

theorem exec_asmIdent_of_value {s : State} (hs : s.asmStatus = .ok) {u : Buffer} {m : Seven} {p : Profile}
    (h : identify u m s.profiles = .value p) : exec (.asmIdent u m) s = .next (s.answered (.profile p)) := by
  rw [exec_asmIdent hs, h, deliver_value]

/-- A lone ASM.IDENT that raises leaves the status as it is (log 14). -/
theorem exec_asmIdent_of_raise {s : State} (hs : s.asmStatus = .ok) {u : Buffer} {m : Seven} {r : Raised}
    (h : identify u m s.profiles = .raise r) : exec (.asmIdent u m) s = .next (s.answered (.raised r)) := by
  rw [exec_asmIdent hs, h, deliver_raise]
  rfl

/-- Settles O41: the first match is found by a search of the registry, and with none the fallback decides. -/
theorem identTakesTheFirstMatchElseTheModelId : Obligations.IdentTakesTheFirstMatchElseTheModelId := by
  intro u m s hs hu hk
  have hmiss : ∀ {qs : List Profile},
      (∀ q ∈ qs, ck (recData (xorFrom q.midiKey 0 u)) ≠ (xorFrom q.midiKey 0 u).getD 2 0) →
        qs.find? (trialOk u) = none :=
    fun h => List.find?_eq_none.2 fun q hq hok => h q hq ((trialOk_iff hu q).1 hok)
  refine ⟨rfl, fun before p after hps hbefore hp => exec_asmIdent_of_value hs ?_,
    fun hnone => ⟨fun p hone => ?_, fun hne => ?_⟩⟩
  · refine identify_of_find?_some hk ?_ m
    rw [hps, List.find?_append, hmiss hbefore, Option.none_or, List.find?_cons_of_pos ((trialOk_iff hu p).2 hp)]
  · exact exec_asmIdent_of_value hs ((identify_of_find?_none hk (hmiss hnone) m).trans (fallback_of_unique hone))
  · exact exec_asmIdent_of_raise hs ((identify_of_find?_none hk (hmiss hnone) m).trans (fallback_of_not_unique hne))

/-! ## The trial on a carried record -/

/-- The trial with the key a good record was enciphered with, whatever bytes follow the record (R111, R123). -/
theorem trialOk_of_record {u tail : Buffer} {p : Profile} {sub : Half} {data : Buffer} (hd : data.length = 256)
    (h : xorFrom p.midiKey 0 u = recordBytesOf sub (ck data) data ++ tail) : trialOk u p = true := by
  have hlen : 259 ≤ u.length := by
    rw [← xorFrom_length p.midiKey 0 u, h, List.length_append, recordBytesOf_length]
    omega
  have hdata : recData (recordBytesOf sub (ck data) data ++ tail) = data := by
    simp [recData, slice, recordBytesOf, ← hd]
  rw [trialOk_iff hlen, h, hdata]
  rfl

theorem midiKeyA_eq_set : Config.midiKeyA = Config.midiKeyB.set 4 (Config.midiKeyB.getD 4 0 ^^^ 0x06) := by decide

/-- A record misread with a change of key byte 4 still passes: neither its checksum byte nor what the checksum sees of its data
has changed (R126). -/
theorem trialOk_of_misread {key : Buffer} (hk : key.length = 5) (d : Byte) {p : Profile}
    (hp : p.midiKey = key.set 4 (key.getD 4 0 ^^^ d)) (sub : Half) {data : Buffer} (hd : data.length = 256) :
    trialOk (xorFrom key 0 (recordBytesOf sub (ck data) data)) p = true := by
  have hlen : (recordBytesOf sub (ck data) data).length = 259 := by rw [recordBytesOf_length, hd]
  have hread : xorFrom p.midiKey 0 (xorFrom key 0 (recordBytesOf sub (ck data) data)) =
      misread key 4 d (recordBytesOf sub (ck data) data) := by rw [misread, hp]
  have hdata : recData (misread key 4 d (recordBytesOf sub (ck data) data)) =
      List.zipWith (· ^^^ ·) data (keyStream (keyChange 4 d) 3 256) := by
    rw [recData, slice, misread_drop hk, hd, List.take_of_length_le (by simp)]
  rw [trialOk_iff (by rw [xorFrom_length, hlen]), hread, hdata, ck_zipWith_xor (by rw [hd, keyStream_length]),
    ckDeltas_keyChange, if_neg (by omega), xor_zero_byte, List.getD_eq_getElem?_getD, misread_getElem? hk 4 d (by omega),
    if_neg (by omega), xor_zero_byte]
  rfl

/-- Settles O25: either the key is the profile's own, or the two differ in byte 4 only. -/
theorem identCannotSeparateTheKnownKeys : Obligations.IdentCannotSeparateTheKnownKeys := by
  intro s q rest key sub data m hs hps hq hkey hd
  have hqkey : q.midiKey ≠ [] := by rcases hq with hq | hq <;> rw [hq] <;> decide
  have hsame : q.midiKey = key → trialOk (xorFrom key 0 (recordBytesOf sub (ck data) data)) q = true := fun h =>
    trialOk_of_record (sub := sub) (tail := []) hd (by rw [h, xorFrom_xorFrom, List.append_nil])
  refine exec_asmIdent_of_value hs (hps ▸ identify_first hqkey ?_ m rest)
  rcases hkey with rfl | rfl <;> rcases hq with hq | hq
  · exact hsame hq
  · exact trialOk_of_misread rfl 0x06 (hq.trans midiKeyB_eq_set) sub hd
  · exact trialOk_of_misread rfl 0x06 (hq.trans midiKeyA_eq_set) sub hd
  · exact hsame hq

end Sys2Proof.Machine
end

section
/-! Records built and taken apart (R160, R180, R182). -/

namespace Sys2Proof.Machine

theorem exec_sbBuild (sub : Half) (payload : Buffer) (s : State) :
    exec (.sbBuild sub payload) s = deliver (sbBuild sub payload) .bytes s := rfl

theorem exec_sbParse (r : Buffer) (s : State) :
    exec (.sbParse r) s = deliver (sbParse r) (fun f => .record f.sub f.sent f.data) s := rfl

theorem exec_msgBuild (text : Buffer) (s : State) : exec (.msgBuild text) s = deliver (msgBuild text) .bytes s := rfl

theorem sbBuild_of_length {payload : Buffer} (h : payload.length = 256) (sub : Half) :
    sbBuild sub payload = .value (recordBytesOf sub (ck payload) payload) := if_pos h

theorem sbBuild_of_length_ne {payload : Buffer} (h : payload.length ≠ 256) (sub : Half) :
    sbBuild sub payload = .raise (.shortBlock payload.length) := if_neg h

theorem padText_length {text : Buffer} (h : text.length ≤ 256) : (padText text).length = 256 := by
  rw [padText, List.length_append, List.length_replicate]
  omega

/-- MSG.BUILD is SB.BUILD of the padded text under the reserved number (R182). -/
theorem msgBuild_of_length {text : Buffer} (h : text.length ≤ 256) :
    msgBuild text = .value (recordBytesOf Config.msgSub (ck (padText text)) (padText text)) := by
  rw [msgBuild, if_pos h, sbBuild_of_length (padText_length h)]

theorem msgBuild_of_long {text : Buffer} (h : 256 < text.length) : msgBuild text = .raise (.shortBlock text.length) :=
  if_neg (by omega)

/-- A text without zero bytes is what stands before the first zero byte of its padding (R165). -/
theorem textOf_append_rep {text : Buffer} (h : (0 : Byte) ∉ text) (n : Nat) : textOf (text ++ rep 0 n) = text := by
  have hne : ∀ b ∈ text, (b != 0) = true := fun b hb => bne_iff_ne.2 fun h0 => h (h0 ▸ hb)
  rw [textOf, List.takeWhile_append_of_pos hne]
  cases n <;> simp [rep, List.replicate_succ]

theorem sbParse_of_length {r : Buffer} (h : 259 ≤ r.length) : sbParse r = .value ⟨recNumber r, recChecksum r, recData r⟩ :=
  if_pos h

theorem sbParse_of_short {r : Buffer} (h : r.length < 259) : sbParse r = .raise (.badLength r.length) := if_neg (by omega)

/-- The two number bytes, the first one in the high half (R51). -/
theorem recNumber_eq_or (r : Buffer) :
    recNumber r = ((r.getD 0 0).setWidth 16 <<< 8) ||| (r.getD 1 0).setWidth 16 := by
  rw [recNumber, BitVec.append_def, BitVec.shiftLeftZeroExtend_eq, BitVec.setWidth'_eq]

/-- The data of a record stands from offset 3 on (R76). -/
theorem recData_getElem? (r : Buffer) {j : Nat} (hj : j < 256) : (recData r)[j]? = r[3 + j]? := by
  rw [recData, slice, List.getElem?_take_of_lt hj, List.getElem?_drop]

/-- Settles O36: the record's fields are the ones it was built from, and a record's length alone decides the faults. -/
theorem recordsAreBuiltAndParsed : Obligations.RecordsAreBuiltAndParsed := by
  refine ⟨fun sub payload s => ⟨rfl, fun hlen => ?_, fun hlen => ?_⟩, fun r s => ⟨rfl, fun hlen => ?_, fun hlen => ?_⟩⟩
  · refine ⟨recordBytesOf sub (ck payload) payload, ?_, by rw [recordBytesOf_length, hlen], ?_, ?_, rfl, rfl, fun extra => ?_⟩
    · rw [exec_sbBuild, sbBuild_of_length hlen]
      rfl
    · exact BitVec.setWidth_ushiftRight_eq_extractLsb.symm
    · exact (BitVec.setWidth_eq_extractLsb' (by omega)).symm
    · rw [exec_sbParse, sbParse_recordBytesOf sub _ hlen]
      rfl
  · rw [exec_sbBuild, sbBuild_of_length_ne hlen]
    rfl
  · refine ⟨recNumber r, recData r, recNumber_eq_or r, recData_length hlen, fun j hj => recData_getElem? r hj, ?_⟩
    rw [exec_sbParse, sbParse_of_length hlen]
    rfl
  · rw [exec_sbParse, sbParse_of_short hlen]
    rfl

end Sys2Proof.Machine
end

section
/-! The acceptance of an event (R163, R231): how it ends for each kind of record and each fault, with the profile selected or
identified, and the same for the wire forms (log 8, 9). -/

namespace Sys2Proof.Machine

/-! ## The instructions -/

theorem exec_asmReset (s : State) : exec .asmReset s = .next ((resetAssembler s).answered .done) := rfl

theorem exec_asmAccept (ev : Event) (s : State) : exec (.asmAccept ev) s = accept ev s := rfl

/-- A record form is the acceptance of the event that carries its record under the presented profile (log 9). -/
theorem exec_recFlash {p : Profile} (hk : p.midiKey ≠ []) (sub : Half) (k : Byte) (data : Buffer) (s : State) :
    exec (.recFlash sub k ⟨p, data⟩) s =
      accept ⟨Config.broadcastId, p.modelId, 0x34, payloadOf p.midiKey (recordBytesOf sub k data)⟩ s :=
  acceptRecord_of_key hk _ s

theorem exec_recMsg {p : Profile} (hk : p.midiKey ≠ []) (k : Byte) (text : Buffer) (s : State) :
    exec (.recMsg k ⟨p, text⟩) s =
      accept ⟨Config.broadcastId, p.modelId, 0x34, payloadOf p.midiKey (recordBytesOf Config.msgSub k text)⟩ s :=
  acceptRecord_of_key hk _ s

/-- ASM.ACCEPT of a firmware event and the wire form that is the event are its acceptance (log 8). -/
theorem exec_firmware {d m : Seven} {payload : Buffer} {i : Instr}
    (hi : i = .asmAccept ⟨d, m, 0x34, payload⟩ ∨ i = .evtWriteFlash d m payload) (s : State) :
    exec i s = accept ⟨d, m, 0x34, payload⟩ s := by
  rcases hi with rfl | rfl <;> rfl

/-- Settles O39. -/
theorem asmResetEmptiesTheAssembler : Obligations.AsmResetEmptiesTheAssembler := fun s => ⟨rfl, exec_asmReset s⟩

/-! ## The steps of an acceptance -/

/-- `seen_model` is written by the first event only (R32). -/
theorem noteModel_eq (m : Seven) (s : State) : noteModel m s = { s with seenModel := some (s.seenModel.getD m) } := by
  rw [noteModel]
  cases s.seenModel <;> rfl

theorem accept_eq_acceptFirmware {s : State} (hs : s.asmStatus = .ok) (d m : Seven) (payload : Buffer) :
    accept ⟨d, m, 0x34, payload⟩ s = acceptFirmware m payload s := by
  rw [accept, whileOk_of_ok hs]
  exact if_pos rfl

theorem acceptFirmware_of_raise {payload : Buffer} {r : Raised} (h : unpack payload = .raise r) (m : Seven) (s : State) :
    acceptFirmware m payload s = passFault r s := by
  rw [acceptFirmware, h]

theorem acceptFirmware_of_short {payload u : Buffer} (h : unpack payload = .value u) (hu : u.length < 259) (m : Seven)
    (s : State) : acceptFirmware m payload s = passFault (.badLength u.length) s := by
  rw [acceptFirmware, h]
  exact if_pos hu

/-- A payload long enough: `seen_model` is noted before anything else is done (R163, R229). -/
theorem acceptFirmware_of_long {payload u : Buffer} (h : unpack payload = .value u) (hu : 259 ≤ u.length) (m : Seven)
    (s : State) : acceptFirmware m payload s = acceptUnpacked u m (noteModel m s) := by
  rw [acceptFirmware, h]
  exact if_neg (by omega)

theorem passProfile_of_some {s : State} {p : Profile} (hp : s.prof = some p) (u : Buffer) (m : Seven) :
    passProfile u m s = .value p := by
  rw [passProfile, hp]

theorem passProfile_of_none {s : State} (hp : s.prof = none) (u : Buffer) (m : Seven) :
    passProfile u m s = identify u m s.profiles := by
  rw [passProfile, hp]

theorem acceptUnpacked_of_raise {u : Buffer} {m : Seven} {s : State} {r : Raised} (h : passProfile u m s = .raise r) :
    acceptUnpacked u m s = passFault r s := by
  rw [acceptUnpacked, h]

/-- An identified profile is used as if it had been selected (R163). -/
theorem acceptUnpacked_of_value {u : Buffer} {m : Seven} {s : State} {p : Profile} (h : passProfile u m s = .value p) :
    acceptUnpacked u m s = acceptUnpacked u m { s with prof := some p } := by
  have hsel : passProfile u m { s with prof := some p } = .value p := passProfile_of_some rfl u m
  rw [acceptUnpacked, acceptUnpacked, h, hsel]

/-! ## Records filed -/

/-- A record under the reserved number is filed as a display message, whatever its checksum byte (R80, R164). -/
theorem fileRecord_message (k : Byte) {data : Buffer} (hd : data.length = 256) (tail : Buffer) (s : State) :
    fileRecord (recordBytesOf 0xFF00 k data ++ tail) s = fileMessage data s := by
  rw [fileRecord, sbParse_recordBytesOf _ k hd tail]
  exact if_pos rfl

theorem fileFlash_verified (sub : Half) (data : Buffer) (s : State) : fileFlash sub (ck data) data s =
    .next ({ s with store := s.store.write sub.toNat data, ord := s.ord + 1 }.answered .done) := by
  have hok : checksumOk data (ck data) = true := decide_eq_true rfl
  rw [fileFlash, if_pos hok]

theorem fileFlash_mismatch {k : Byte} {data : Buffer} (h : k ≠ ck data) (sub : Half) (s : State) :
    fileFlash sub k data s = .next (takeFault true (.checksumMismatch sub k (ck data)) s) := by
  have hbad : ¬ checksumOk data k = true := by rw [checksumOk, decide_eq_true_eq]; exact h.symm
  rw [fileFlash, if_neg hbad]

/-! ## Events that carry a record -/

/-- An event that carries a flash record under the selected profile is verified and stored (R163 step 5). -/
theorem accept_flashRecord {s : State} {p : Profile} (hs : s.asmStatus = .ok) (hp : s.prof = some p) (hk : p.midiKey ≠ [])
    (d m : Seven) {sub : Half} (hsub : sub ≠ 0xFF00) (k : Byte) {data : Buffer} (hd : data.length = 256) (extra : Buffer) :
    accept ⟨d, m, 0x34, payloadOf p.midiKey (recordBytesOf sub k data ++ extra)⟩ s =
      fileFlash sub k data { s with seenModel := some (s.seenModel.getD m) } := by
  obtain ⟨tail, htail⟩ := accept_payloadOf (r := recordBytesOf sub k data ++ extra) hs hp hk (by simp [hd]) d m
  rw [← noteModel_eq, ← fileRecord_flash hsub k hd (extra ++ tail), ← List.append_assoc]
  exact htail

/-- An event that carries a display message under the selected profile is filed (R163 step 4). -/
theorem accept_messageRecord {s : State} {p : Profile} (hs : s.asmStatus = .ok) (hp : s.prof = some p) (hk : p.midiKey ≠ [])
    (d m : Seven) (k : Byte) {data : Buffer} (hd : data.length = 256) (extra : Buffer) :
    accept ⟨d, m, 0x34, payloadOf p.midiKey (recordBytesOf 0xFF00 k data ++ extra)⟩ s =
      fileMessage data { s with seenModel := some (s.seenModel.getD m) } := by
  obtain ⟨tail, htail⟩ := accept_payloadOf (r := recordBytesOf 0xFF00 k data ++ extra) hs hp hk (by simp [hd]) d m
  rw [← noteModel_eq, ← fileRecord_message k hd (extra ++ tail), ← List.append_assoc]
  exact htail

/-- Settles O42. -/
theorem acceptStoresAVerifiedSubBlock : Obligations.AcceptStoresAVerifiedSubBlock := by
  intro s p d m sub k data extra i hs hp hk hsub hd hi
  rw [exec_firmware hi, accept_flashRecord hs hp hk d m hsub k hd extra]
  refine ⟨?_, fun hbad => ?_⟩
  · rintro rfl
    rw [fileFlash_verified]
    rfl
  · rw [fileFlash_mismatch hbad]
    rfl

/-- Settles O43. -/
theorem acceptFilesADisplayMessage : Obligations.AcceptFilesADisplayMessage := by
  intro s p d m k data extra i hs hp hk hd hi
  rw [exec_firmware hi, accept_messageRecord hs hp hk d m k hd extra]
  rfl

/-! ## Faults of the length -/

/-- Settles O44: 296 packed bytes are the first whole groups to hold a record. -/
theorem acceptRaisesBadLength : Obligations.AcceptRaisesBadLength := by
  intro s d m payload i hs hi
  rw [exec_firmware hi, accept_eq_acceptFirmware hs]
  refine ⟨fun hodd => ?_, fun heven hshort => ?_⟩
  · have hraise : unpack payload = .raise (.badLength payload.length) := if_neg hodd
    rw [acceptFirmware_of_raise hraise]
    rfl
  · rw [acceptFirmware_of_short (unpack_of_dvd heven) (by rw [unpackGroups_length]; omega), unpackGroups_length]
    rfl

/-! ## Identification inside an acceptance -/

/-- The answer tells a value from a fault. -/
theorem deliver_eq_answered {α : Type} {c : Calc α} {wrap : α → Answer} {s : State} {b : Answer}
    (h : deliver c wrap s = .next (s.answered b)) : (∃ a, c = .value a ∧ b = wrap a) ∨ ∃ r, c = .raise r ∧ b = .raised r := by
  rcases deliver_next h with ⟨a, hc, ht⟩ | ⟨r, hc, ht⟩
  · exact .inl ⟨a, hc, congrArg State.answer ht⟩
  · exact .inr ⟨r, hc, congrArg State.answer ht⟩

theorem unpack_of_exec {y u : Buffer} {s : State} (h : exec (.unpack y) s = .next (s.answered (.bytes u))) :
    unpack y = .value u := by
  rcases deliver_eq_answered h with ⟨a, hc, ha⟩ | ⟨r, -, hr⟩
  · cases ha
    exact hc
  · cases hr

theorem identify_of_exec_profile {s : State} (hs : s.asmStatus = .ok) {u : Buffer} {m : Seven} {p : Profile}
    (h : exec (.asmIdent u m) s = .next (s.answered (.profile p))) : identify u m s.profiles = .value p := by
  rw [exec_asmIdent hs] at h
  rcases deliver_eq_answered h with ⟨a, hc, ha⟩ | ⟨r, -, hr⟩
  · cases ha
    exact hc
  · cases hr

theorem identify_of_exec_raised {s : State} (hs : s.asmStatus = .ok) {u : Buffer} {m : Seven} {r : Raised}
    (h : exec (.asmIdent u m) s = .next (s.answered (.raised r))) : identify u m s.profiles = .raise r := by
  rw [exec_asmIdent hs] at h
  rcases deliver_eq_answered h with ⟨a, -, ha⟩ | ⟨r', hc, hr⟩
  · cases ha
  · cases hr
    exact hc

/-- With no profile selected, an event is accepted as under the identified profile (R163). -/
theorem accept_of_identified {s : State} (hs : s.asmStatus = .ok) (hp : s.prof = none) {payload u : Buffer}
    (hu : unpack payload = .value u) (hlen : 259 ≤ u.length) {m : Seven} {p : Profile}
    (hi : identify u m s.profiles = .value p) (d : Seven) :
    accept ⟨d, m, 0x34, payload⟩ s = accept ⟨d, m, 0x34, payload⟩ { s with prof := some p } := by
  rw [accept_eq_acceptFirmware hs, accept_eq_acceptFirmware (s := { s with prof := some p }) hs,
    acceptFirmware_of_long hu hlen, acceptFirmware_of_long hu hlen]
  exact acceptUnpacked_of_value ((passProfile_of_none (s := noteModel m s) hp u m).trans hi)

/-- Settles O46. -/
theorem acceptIdentifiesOnTheFirstFirmwareEvent : Obligations.AcceptIdentifiesOnTheFirstFirmwareEvent := by
  intro s d m payload u hs hp hlen hunpack
  have hu := unpack_of_exec hunpack
  refine ⟨fun p hident => accept_of_identified hs hp hu hlen (identify_of_exec_profile hs hident) d, fun r hident => ?_⟩
  have hraise := (passProfile_of_none (s := noteModel m s) hp u m).trans (identify_of_exec_raised hs hident)
  rw [exec_asmAccept, accept_eq_acceptFirmware hs, acceptFirmware_of_long hu hlen, acceptUnpacked_of_raise hraise,
    noteModel_eq]
  rfl

/-! ## The record forms -/

/-- Settles O47: the store afterwards is the one with the record's key written. -/
theorem recordFormStoresItsSubBlock : Obligations.RecordFormStoresItsSubBlock := by
  intro s p sub k data hs hp hk hsub hd
  have hform : exec (.recFlash sub k ⟨p, data⟩) s =
      fileFlash sub k data { s with seenModel := some (s.seenModel.getD p.modelId) } := by
    rw [exec_recFlash hk, ← List.append_nil (recordBytesOf sub k data), accept_flashRecord hs hp hk _ _ hsub k hd]
  refine ⟨?_, fun hbad => ?_⟩
  · rintro rfl
    refine ⟨s.store.write sub.toNat data, ?_, fun offset => ?_, fun key hkey offset => ?_, fun key hkey => ?_⟩
    · rw [hform, fileFlash_verified]
      rfl
    · rw [Memory.readByte, Memory.read_write_same, Option.bind_some]
    · rw [Memory.readByte, Memory.readByte, Memory.read_write_other s.store data hkey]
    · rw [Memory.present, Memory.present, Memory.read_write_other s.store data hkey]
  · rw [hform, fileFlash_mismatch hbad]
    rfl

/-- A message form under the selected profile files its text (R165, log 9). -/
theorem exec_recMsg_selected {s : State} {p : Profile} (hs : s.asmStatus = .ok) (hp : s.prof = some p) (hk : p.midiKey ≠ [])
    (k : Byte) {data : Buffer} (hd : data.length = 256) : exec (.recMsg k ⟨p, data⟩) s = .next { s with
      seenModel := some (s.seenModel.getD p.modelId), msgs := s.msgs ++ [(s.ord, textOf data)], answer := .done } := by
  rw [exec_recMsg hk, ← List.append_nil (recordBytesOf _ k data), accept_messageRecord hs hp hk _ _ k hd]
  rfl

/-- Settles O37: a text without zero bytes is what stands before the first zero byte of its padding. -/
theorem messageTextSurvivesThePadding : Obligations.MessageTextSurvivesThePadding := by
  refine ⟨fun text s => ⟨rfl, fun hlen => ?_, fun hlong => ?_⟩, fun p k data s hs hp hk hd =>
    exec_recMsg_selected hs hp hk k hd⟩
  · refine ⟨padText text, rfl, ?_, fun p k hs hp hk hzero => ?_⟩
    · rw [exec_msgBuild, msgBuild_of_length hlen]
      rfl
    · rw [exec_recMsg_selected hs hp hk k (padText_length hlen), padText, textOf_append_rep hzero]
  · rw [exec_msgBuild, msgBuild_of_long hlong]
    rfl

/-! ## A preset profile -/

/-- An outcome with another registry in its next state. -/
def withRegistry (registry : List Profile) : Outcome → Outcome
  | .next t => .next { t with profiles := registry }
  | .fault f => .fault f
  | .refused r => .refused r

theorem fileRecord_withRegistry (r : Buffer) (s : State) (registry : List Profile) :
    fileRecord r { s with profiles := registry } = withRegistry registry (fileRecord r s) := by
  unfold fileRecord
  split
  · split
    · rfl
    · unfold fileFlash
      split <;> rfl
  · rfl
  · rfl

theorem acceptUnpacked_withRegistry {s : State} {p : Profile} (hp : s.prof = some p) (u : Buffer) (m : Seven)
    (registry : List Profile) :
    acceptUnpacked u m { s with profiles := registry } = withRegistry registry (acceptUnpacked u m s) := by
  have hother : passProfile u m { s with profiles := registry } = .value p :=
    passProfile_of_some (s := { s with profiles := registry }) hp u m
  rw [acceptUnpacked, acceptUnpacked, hother, passProfile_of_some hp]
  dsimp only
  split
  · exact fileRecord_withRegistry _ { s with prof := some p } registry
  · rfl
  · rfl

/-- With a profile selected, the registry is not read (R162). -/
theorem accept_withRegistry {s : State} {p : Profile} (hp : s.prof = some p) (ev : Event) (registry : List Profile) :
    accept ev { s with profiles := registry } = withRegistry registry (accept ev s) := by
  unfold accept whileOk
  dsimp only
  split
  · split
    · unfold acceptFirmware
      split
      · rfl
      · rfl
      · split
        · rfl
        · exact acceptUnpacked_withRegistry (s := noteModel ev.modelId s) hp _ _ registry
    · rfl
  · rfl

theorem exec_asmPreset (p : Profile) (s : State) : exec (.asmPreset p) s = execAsmPreset p s := rfl

theorem execAsmPreset_of_none {s : State} (hs : s.asmStatus = .ok) (hp : s.prof = none) (p : Profile) :
    execAsmPreset p s = .next ({ s with prof := some p }.answered .done) := by
  rw [execAsmPreset, whileOk_of_ok hs, hp]

theorem execAsmPreset_of_some {s : State} (hs : s.asmStatus = .ok) {q : Profile} (hq : s.prof = some q) (p : Profile) :
    execAsmPreset p s = .refused .profileAlreadySet := by
  rw [execAsmPreset, whileOk_of_ok hs, hq]

/-- Settles O40. -/
theorem presetSetsTheProfileOnce : Obligations.PresetSetsTheProfileOnce := by
  refine ⟨fun p s => ⟨rfl, fun hp hs => execAsmPreset_of_none hs hp p, fun hnot => ?_⟩,
    fun p ev s registry hp => ⟨fun t ht => ?_, fun r hr => ?_⟩⟩
  · rw [exec_asmPreset]
    by_cases hs : s.asmStatus = .ok
    · obtain ⟨q, hq⟩ := Option.ne_none_iff_exists'.1 fun hp => hnot ⟨hp, hs⟩
      exact ⟨_, execAsmPreset_of_some hs hq p⟩
    · obtain ⟨k, hk⟩ := faulted_of_ne_ok hs
      exact ⟨_, whileOk_of_faulted hk⟩
  · exact (accept_withRegistry hp ev registry).trans (congrArg (withRegistry registry) ht)
  · exact (accept_withRegistry hp ev registry).trans (congrArg (withRegistry registry) hr)

end Sys2Proof.Machine
end

section
/-! The block map (R170) and its full views (R172, R207): keyed maps, sixteen sub-blocks read as a block, and buffers made of
pieces of one length. -/

namespace Sys2Proof.Machine

/-! ## Keyed maps -/

/-- A map made by trying each of some keys holds exactly what the keys give. -/
theorem lookupKey_filterMap (g : Nat → Option Buffer) (ks : List Nat) (i : Nat) :
    lookupKey i (ks.filterMap fun k => (g k).map fun v => (k, v)) = if i ∈ ks then g i else none := by
  induction ks with
  | nil => rfl
  | cons k ks ih =>
    cases hg : g k with
    | none =>
      rw [List.filterMap_cons_none (by rw [hg]; rfl), ih]
      by_cases hik : i = k
      · subst hik
        simp [hg]
      · simp [hik]
    | some v =>
      rw [List.filterMap_cons_some (by rw [hg]; rfl), lookupKey_cons, ih]
      by_cases hik : i = k
      · subst hik
        simp [hg]
      · simp [hik, Ne.symm hik]

/-- Rising keys give a rising map. -/
theorem pairwise_filterMap_keys (g : Nat → Option Buffer) {ks : List Nat} (h : ks.Pairwise (· < ·)) :
    (ks.filterMap fun k => (g k).map fun v => (k, v)).Pairwise fun x y => x.1 < y.1 := by
  refine List.Pairwise.filterMap _ (fun a a' hlt b hb b' hb' => ?_) h
  obtain ⟨v, -, rfl⟩ := Option.map_eq_some_iff.1 hb
  obtain ⟨v', -, rfl⟩ := Option.map_eq_some_iff.1 hb'
  exact hlt

/-! ## Sixteen sub-blocks -/

theorem readAll_cons_none {m : Memory} {k : Nat} (h : m.read k = none) (ks : List Nat) : m.readAll (k :: ks) = none := by
  rw [Memory.readAll, h]

theorem readAll_cons_some {m : Memory} {k : Nat} {v : Buffer} (h : m.read k = some v) (ks : List Nat) :
    m.readAll (k :: ks) = (m.readAll ks).map (v ++ ·) := by
  rw [Memory.readAll, h]
  cases m.readAll ks <;> rfl

theorem readAll_of_absent {m : Memory} {ks : List Nat} {k : Nat} (hk : k ∈ ks) (h : m.read k = none) :
    m.readAll ks = none := by
  induction ks with
  | nil => cases hk
  | cons a ks ih =>
    cases ha : m.read a with
    | none => exact readAll_cons_none ha ks
    | some v =>
      have hrest : k ∈ ks := (List.mem_cons.1 hk).resolve_left fun hka => by rw [← hka, h] at ha; cases ha
      rw [readAll_cons_some ha, ih hrest]
      rfl

theorem readAll_map {m : Memory} {f : Nat → Nat} {v : Nat → Buffer} {js : List Nat}
    (h : ∀ j ∈ js, m.read (f j) = some (v j)) : m.readAll (js.map f) = some (js.flatMap v) := by
  induction js with
  | nil => rfl
  | cons j js ih =>
    obtain ⟨hj, hjs⟩ := List.forall_mem_cons.1 h
    rw [List.map_cons, readAll_cons_some hj, ih hjs]
    rfl

theorem blockKeys_eq (i : Nat) : blockKeys i = (List.range 16).map fun j => 16 * i + j := by
  rw [blockKeys, Nat.shiftLeft_eq, Nat.mul_comm]

/-- A block as it stands in the map: deciphered, or as stored (R170). -/
def asBlock (prof : Option Profile) (i : Nat) (x : Buffer) : Buffer :=
  if deciphers prof i then cipher (BitVec.ofNat 16 i) x else x

theorem blockAt_of_absent {store : Memory} {i j : Nat} (hj : j < 16) (h : store.read (16 * i + j) = none)
    (prof : Option Profile) : blockAt store prof i = none := by
  have hkey : 16 * i + j ∈ blockKeys i := by
    rw [blockKeys_eq]
    exact List.mem_map_of_mem (List.mem_range.2 hj)
  rw [blockAt, readAll_of_absent hkey h]
  rfl

theorem blockAt_of_present {store : Memory} {i : Nat} {sub : Nat → Buffer}
    (h : ∀ j, j < 16 → store.read (16 * i + j) = some (sub j)) (prof : Option Profile) :
    blockAt store prof i = some (asBlock prof i ((List.range 16).flatMap sub)) := by
  rw [blockAt, blockKeys_eq, readAll_map fun j hj => h j (List.mem_range.1 hj)]
  rfl

theorem asBlock_selected (p : Profile) (i : Nat) (x : Buffer) :
    asBlock (some p) i x = if p.encLo ≤ i ∧ i ≤ p.encHi then cipher (BitVec.ofNat 16 i) x else x := by
  simp only [asBlock, deciphers, inEncryptedRange, Bool.and_eq_true, decide_eq_true_eq]

theorem asBlock_cases (prof : Option Profile) (i : Nat) (x : Buffer) :
    asBlock prof i x = x ∨ asBlock prof i x = cipher (BitVec.ofNat 16 i) x := by
  rw [asBlock]
  split
  · exact .inr rfl
  · exact .inl rfl

/-! ## The map -/

theorem lookupKey_getBlocks (store : Memory) (prof : Option Profile) (i : Nat) :
    lookupKey i (getBlocks store prof) = if i < 0x80 then blockAt store prof i else none := by
  rw [getBlocks, lookupKey_filterMap]
  simp only [List.mem_range]

theorem lookupKey_getBlocks_of_absent {store : Memory} {i j : Nat} (hj : j < 16) (h : store.read (16 * i + j) = none)
    (prof : Option Profile) : lookupKey i (getBlocks store prof) = none := by
  rw [lookupKey_getBlocks, blockAt_of_absent hj h, ite_self]

theorem lookupKey_getBlocks_of_present {store : Memory} {i : Nat} (hi : i < 0x80) {sub : Nat → Buffer}
    (h : ∀ j, j < 16 → store.read (16 * i + j) = some (sub j)) (prof : Option Profile) :
    lookupKey i (getBlocks store prof) = some (asBlock prof i ((List.range 16).flatMap sub)) := by
  rw [lookupKey_getBlocks, if_pos hi, blockAt_of_present h]

theorem getBlocks_of_incomplete {store : Memory} (h : ∀ i, i < 0x80 → ∃ j, j < 16 ∧ store.read (16 * i + j) = none)
    (prof : Option Profile) : getBlocks store prof = [] := by
  refine List.filterMap_eq_nil_iff.2 fun i hi => ?_
  obtain ⟨j, hj, hread⟩ := h i (List.mem_range.1 hi)
  rw [blockAt_of_absent hj hread]
  rfl

theorem exec_asmGetblocks {s : State} (hs : s.asmStatus = .ok) :
    exec .asmGetblocks s = .next (s.answered (.blocks (getBlocks s.store s.prof))) := whileOk_of_ok hs

theorem exec_asmGetblocks_faulted {s : State} {k : Kind} (hs : s.asmStatus = .faulted k) :
    exec .asmGetblocks s = .refused .passFaulted := whileOk_of_faulted hs

/-- Settles O49. -/
theorem getBlocksCollectsTheCompleteBlocks : Obligations.GetBlocksCollectsTheCompleteBlocks := by
  refine ⟨rfl, fun s k hk => ⟨_, exec_asmGetblocks_faulted hk⟩, fun s hs _ => ⟨fun p hp => ?_, fun hnone => ?_⟩⟩
  · refine ⟨getBlocks s.store s.prof, exec_asmGetblocks hs, pairwise_filterMap_keys _ List.pairwise_lt_range,
      fun i hi => ?_, fun i hi => ⟨fun ⟨j, hj, habsent⟩ => lookupKey_getBlocks_of_absent hj habsent _, fun sub hsub => ?_⟩⟩
    · rw [lookupKey_getBlocks, if_neg (by omega)]
    · rw [lookupKey_getBlocks_of_present hi hsub, hp, asBlock_selected]
  · rw [exec_asmGetblocks hs, getBlocks_of_incomplete hnone]
    rfl

/-- Settles O50: a free value decides only which of the named answers it is. -/
theorem openValuesDoNotStopTheRun : Obligations.OpenValuesDoNotStopTheRun := by
  refine ⟨fun s hs _ => ⟨_, exec_asmGetblocks hs, fun i sub hi hsub => ?_⟩, fun u m s hs hk => ?_⟩
  · rw [lookupKey_getBlocks_of_present hi hsub, Option.some_inj, Option.some_inj]
    exact asBlock_cases _ _ _
  · rcases identify_total hk u m with ⟨p, hp, hvalue⟩ | ⟨n, hraise⟩
    · exact ⟨_, exec_asmIdent_of_value hs hvalue, .inl ⟨p, hp, rfl⟩⟩
    · exact ⟨_, exec_asmIdent_of_raise hs hraise, .inr ⟨n, rfl⟩⟩

/-! ## Buffers made of pieces of one length -/

theorem length_flatMap_range {c n : Nat} {f : Nat → Buffer} (h : ∀ i, i < n → (f i).length = c) :
    ((List.range n).flatMap f).length = c * n := by
  induction n with
  | zero => rfl
  | succ n ih =>
    rw [List.range_succ, List.flatMap_append, List.length_append, ih fun i hi => h i (by omega), List.flatMap_singleton,
      h n (by omega), Nat.mul_succ]

/-- Piece `i` of such a buffer. -/
theorem take_drop_flatMap_range {c n : Nat} {f : Nat → Buffer} (h : ∀ i, i < n → (f i).length = c) {i : Nat} (hi : i < n) :
    (((List.range n).flatMap f).drop (c * i)).take c = f i := by
  obtain ⟨k, rfl⟩ : ∃ k, n = i + (1 + k) := ⟨n - i - 1, by omega⟩
  have hbefore : ((List.range i).flatMap f).length = c * i := length_flatMap_range fun x hx => h x (by omega)
  rw [List.range_add, List.flatMap_append, List.drop_left' hbefore, List.range_add, List.map_append, List.flatMap_append,
    List.take_left' ?_]
  · simp
  · simp [h i hi]

/-- The pieces of a buffer, put together again. -/
theorem flatMap_range_take_drop (c n : Nat) (x : Buffer) :
    ((List.range n).flatMap fun i => (x.drop (c * i)).take c) = x.take (c * n) := by
  induction n with
  | zero => simp
  | succ n ih => rw [List.range_succ, List.flatMap_append, ih, List.flatMap_singleton, Nat.mul_succ, List.take_add]

/-! ## Full views -/

theorem blockOrFill_length {map : BlockMap} (hm : BlockMap.wf map) (i : Nat) : (blockOrFill map i).length = 4096 := by
  rw [blockOrFill, BlockMap.get]
  cases h : lookupKey i map with
  | none => exact List.length_replicate
  | some blk =>
    obtain ⟨-, hblocks⟩ := hm
    exact (hblocks _ (mem_of_lookupKey h)).2

/-- The blocks of a range are those `lo` places above `0 .. hi - lo`. -/
theorem renderFill_eq (map : BlockMap) {lo hi : Nat} (h : lo ≤ hi) :
    renderFill map (indexRange lo hi) = (List.range (hi - lo + 1)).flatMap fun i => blockOrFill map (lo + i) := by
  have hcount : hi + 1 - lo = hi - lo + 1 := by omega
  rw [renderFill, indexRange, hcount, List.range'_eq_map_range, List.flatMap_map]

theorem flashView_eq (map : BlockMap) : flashView map = renderFill map (indexRange 0 0x7F) := by
  rw [renderFill_eq map (by omega)]
  simp only [Nat.zero_add]
  rfl

theorem exec_partFill (map : BlockMap) (lo hi : Nat) (s : State) :
    exec (.partFill map lo hi) s = .next (s.answered (.bytes (renderFill map (indexRange lo hi)))) := rfl

theorem exec_flashview (map : BlockMap) (s : State) :
    exec (.flashview map) s = .next (s.answered (.bytes (renderFill map (indexRange 0 0x7F)))) := by
  rw [← flashView_eq]
  rfl

theorem renderFill_length {map : BlockMap} (hm : BlockMap.wf map) {lo hi : Nat} (h : lo ≤ hi) :
    (renderFill map (indexRange lo hi)).length = (hi - lo + 1) * 4096 := by
  rw [renderFill_eq map h, length_flatMap_range fun i _ => blockOrFill_length hm _, Nat.mul_comm]

theorem renderFill_block {map : BlockMap} (hm : BlockMap.wf map) {lo hi i : Nat} (hlo : lo ≤ i) (hhi : i ≤ hi) :
    ((renderFill map (indexRange lo hi)).drop (4096 * (i - lo))).take 4096 = blockOrFill map i := by
  rw [renderFill_eq map (by omega), take_drop_flatMap_range (fun j _ => blockOrFill_length hm _) (by omega),
    Nat.add_sub_cancel' hlo]

/-- Settles O51: the full view is the one of the range 0..0x7F. -/
theorem fullChipViewFillsWithFF : Obligations.FullChipViewFillsWithFF := by
  intro map s hm
  refine ⟨rfl, fun _ _ => rfl, ⟨_, exec_flashview map s, exec_partFill map 0 0x7F s, renderFill_length hm (by omega),
    fun i hi => renderFill_block hm (lo := 0) (by omega) (by omega)⟩, fun lo hi h => ⟨_, exec_partFill map lo hi s,
    renderFill_length hm h, fun i hlo hhi => renderFill_block hm hlo hhi⟩⟩

end Sys2Proof.Machine
end

section
/-! DECODE against its expansion (R83, R174): the acceptance of several events as instructions in a row, and the end of a
pass. -/

namespace Sys2Proof.Machine

/-! ## The answer register is no part of an acceptance -/

theorem fileRecord_answered (r : Buffer) (s : State) (a : Answer) : fileRecord r (s.answered a) = fileRecord r s := by
  unfold fileRecord
  split
  · split
    · rfl
    · unfold fileFlash
      split <;> rfl
  · rfl
  · rfl

theorem acceptUnpacked_answered (u : Buffer) (m : Seven) (s : State) (a : Answer) :
    acceptUnpacked u m (s.answered a) = acceptUnpacked u m s := by
  have hp : passProfile u m (s.answered a) = passProfile u m s := rfl
  unfold acceptUnpacked
  rw [hp]
  split
  · rfl
  · rfl
  · split
    · exact fileRecord_answered _ { s with prof := _ } a
    · rfl
    · rfl

/-- An acceptance overwrites the answer and does not read it. -/
theorem accept_answered (ev : Event) (s : State) (a : Answer) : accept ev (s.answered a) = accept ev s := by
  unfold accept whileOk
  rw [answered_asmStatus]
  split
  · split
    · unfold acceptFirmware
      split
      · rfl
      · rfl
      · split
        · rfl
        · exact acceptUnpacked_answered _ _ (noteModel _ s) a
    · rfl
  · rfl

/-! ## Several events -/

theorem acceptAll_cons_ok {ev : Event} {s t : State} (h : accept ev s = .next t) (ht : t.asmStatus = .ok)
    (evs : List Event) : acceptAll (ev :: evs) s = acceptAll evs t := by
  rw [acceptAll_cons, h]
  dsimp only
  rw [ht]

/-- A fault ends the pass (R174). -/
theorem acceptAll_cons_faulted {ev : Event} {s t : State} {k : Kind} (h : accept ev s = .next t)
    (ht : t.asmStatus = .faulted k) (evs : List Event) : acceptAll (ev :: evs) s = .next t := by
  rw [acceptAll_cons, h]
  dsimp only
  rw [ht]

theorem acceptAll_append {before after : List Event} {s t : State} (h : acceptAll before s = .next t)
    (ht : t.asmStatus = .ok) : acceptAll (before ++ after) s = acceptAll after t := by
  induction before generalizing s with
  | nil =>
    cases h
    rfl
  | cons ev evs ih =>
    rw [acceptAll_cons] at h
    split at h
    · rename_i u hu
      split at h
      · rename_i hok
        rw [List.cons_append, acceptAll_cons_ok hu hok, ih h]
      · rename_i k hk
        cases h
        rw [hk] at ht
        cases ht
    · cases h
    · cases h

/-! ## Runs of instructions -/

theorem execAll_cons_some {i : Instr} {is : List Instr} {s t : State} {as : List Answer}
    (h : execAll (i :: is) s = some (t, as)) : ∃ u bs, exec i s = .next u ∧ execAll is u = some (t, bs) := by
  cases hi : exec i s with
  | next u =>
    rw [execAll_cons hi] at h
    obtain ⟨⟨t', bs⟩, hrun, heq⟩ := Option.map_eq_some_iff.1 h
    cases heq
    exact ⟨u, bs, rfl, hrun⟩
  | fault f => simp [execAll, hi] at h
  | refused r => simp [execAll, hi] at h

theorem execAll_nil_some {s t : State} {as : List Answer} (h : execAll [] s = some (t, as)) : t = s := by
  cases h
  rfl

/-- ASM.GETBLOCKS goes on only in a pass that is not FAULTED (R231). -/
theorem exec_asmGetblocks_next {s t : State} (h : exec .asmGetblocks s = .next t) :
    s.asmStatus = .ok ∧ t = s.answered (.blocks (getBlocks s.store s.prof)) := by
  obtain ⟨hok, hnext⟩ := whileOk_next h
  cases hnext
  exact ⟨hok, rfl⟩

/-- Events accepted one instruction each, none of which ended the pass. -/
theorem acceptAll_of_execAll {evs : List Event} {s t : State} {as : List Answer}
    (h : execAll (evs.map Instr.asmAccept) s = some (t, as)) (ht : t.asmStatus = .ok) : acceptAll evs s = .next t := by
  induction evs generalizing s as with
  | nil => rw [execAll_nil_some h, acceptAll]
  | cons ev evs ih =>
    obtain ⟨u, bs, hu, hrun⟩ := execAll_cons_some h
    by_cases hok : u.asmStatus = .ok
    · rw [acceptAll_cons_ok hu hok, ih hrun]
    · cases evs with
      | nil => exact absurd (execAll_nil_some hrun ▸ ht) hok
      | cons ev' evs =>
        obtain ⟨v, cs, hv, -⟩ := execAll_cons_some hrun
        exact absurd (accept_next hv).1 hok

/-- A run of two parts passes through a state in between. -/
theorem execAll_append_some {is js : List Instr} {s t : State} {as : List Answer} (h : execAll (is ++ js) s = some (t, as)) :
    ∃ u bs cs, execAll is s = some (u, bs) ∧ execAll js u = some (t, cs) := by
  induction is generalizing s as with
  | nil => exact ⟨s, [], as, rfl, h⟩
  | cons i is ih =>
    obtain ⟨v, ds, hv, hrun⟩ := execAll_cons_some h
    obtain ⟨u, bs, cs, hu, ht⟩ := ih hrun
    exact ⟨u, v.answer :: bs, cs, by rw [execAll_cons hv, hu, Option.map_some], ht⟩

/-- The expansion of DECODE after its reset, when it goes on to the end: the pass it made, and the block map of its store. -/
theorem acceptAll_of_execAll_getblocks {evs : List Event} {s t : State} {as : List Answer}
    (h : execAll (evs.map Instr.asmAccept ++ [Instr.asmGetblocks]) s = some (t, as)) :
    ∃ v, acceptAll evs s = .next v ∧ v.asmStatus = .ok ∧ t = v.answered (.blocks (getBlocks v.store v.prof)) := by
  obtain ⟨v, bs, cs, hevs, hblocks⟩ := execAll_append_some h
  obtain ⟨w, ds, hw, hnil⟩ := execAll_cons_some hblocks
  obtain ⟨hok, rfl⟩ := exec_asmGetblocks_next hw
  exact ⟨v, acceptAll_of_execAll hevs hok, hok, execAll_nil_some hnil⟩

/-! ## The end of a pass -/

/-- The end of DECODE after the acceptance of its events. -/
def finishPass : Outcome → Outcome
  | .next t => finishDecode t
  | .fault f => .fault f
  | .refused r => .refused r

theorem exec_decodeStream (buf : Buffer) (s : State) : exec (.decodeStream buf) s = decodeBuffer buf s := rfl

theorem decodeBuffer_of_detect {buf : Buffer} (h : detect buf = true) (s : State) :
    decodeBuffer buf s = finishPass (acceptAll (scan buf s).2 (resetAssembler (scan buf s).1)) := by
  rw [decodeBuffer, if_pos h]
  rfl

theorem decodeBuffer_of_not_detect {buf : Buffer} (h : detect buf = false) (s : State) :
    decodeBuffer buf s = .refused .notSysex := by
  rw [decodeBuffer, if_neg (by rw [h]; exact Bool.false_ne_true)]

theorem finishDecode_ok {s : State} (hs : s.asmStatus = .ok) :
    finishDecode s = .next ({ s with format := .sysex }.answered (.bundle (bundleOf s))) := by
  rw [finishDecode, hs]

theorem finishDecode_faulted {s : State} {k : Kind} (hs : s.asmStatus = .faulted k) : finishDecode s = .next s := by
  rw [finishDecode, hs]

theorem finishPass_ok {s : State} (hs : s.asmStatus = .ok) :
    finishPass (.next s) = .next ({ s with format := .sysex }.answered (.bundle (bundleOf s))) := finishDecode_ok hs

/-- The answer with which a pass begins does not show at its end. -/
theorem finishPass_acceptAll_answered {s : State} (hs : s.asmStatus = .ok) (evs : List Event) (a : Answer) :
    finishPass (acceptAll evs (s.answered a)) = finishPass (acceptAll evs s) := by
  cases evs with
  | nil => exact (finishPass_ok (s := s.answered a) hs).trans (finishPass_ok hs).symm
  | cons ev evs => rw [acceptAll_cons, acceptAll_cons, accept_answered]

/-- A fault that an acceptance answers is the one it records (R231). -/
theorem accept_raised {ev : Event} {s t : State} {r : Raised} (h : accept ev s = .next t) (ha : t.answer = .raised r) :
    t.asmStatus = .faulted r.kind := by
  obtain ⟨-, rfl | ⟨sm, -, ⟨r', -, rfl⟩ | ⟨p, -, hf⟩⟩⟩ := accept_next h
  · cases ha
  · cases ha
    rfl
  · rcases hf with ⟨r', -, rfl⟩ | ⟨data, -, rfl⟩ | ⟨sub, data, -, -, rfl⟩ <;> cases ha
    rfl

/-- A stream without firmware events leaves an empty pass (R84). -/
theorem acceptAll_of_unknownCommands {evs : List Event} (hevs : ∀ e ∈ evs, e.command ≠ 0x34) {s : State}
    (hs : s.asmStatus = .ok) : ∃ log a, acceptAll evs s = .next ({ s with skiplog := log }.answered a) := by
  induction evs generalizing s with
  | nil => exact ⟨s.skiplog, s.answer, rfl⟩
  | cons ev evs ih =>
    obtain ⟨hev, hrest⟩ := List.forall_mem_cons.1 hevs
    obtain ⟨log, a, hpass⟩ := ih hrest (s := (s.skipped (.unknownCommand ev.command)).answered .done) hs
    exact ⟨log, a, (acceptAll_cons_ok (accept_of_unknownCommand hs hev) hs evs).trans hpass⟩

theorem getBlocks_nil (prof : Option Profile) : getBlocks [] prof = [] :=
  getBlocks_of_incomplete (fun _ _ => ⟨0, by omega, rfl⟩) prof

theorem detect_of_exec {buf : Buffer} {s : State} {f : Bool}
    (h : exec (.envDetect buf) s = .next { s with answer := .verdict f }) : detect buf = f := by
  rw [exec_envDetect] at h
  injection h with h
  exact Answer.verdict.inj (congrArg State.answer h)

/-- DECODE is the pass that starts, after ENV.SCAN and ASM.RESET, with the events of the scan. -/
theorem exec_decodeStream_of_scan {buf : Buffer} (hdet : detect buf = true) {s u : State} {evs : List Event}
    (hscan : exec (.envScan buf) s = .next u) (hevs : u.answer = .events evs) :
    exec (.decodeStream buf) s = finishPass (acceptAll evs ((resetAssembler u).answered .done)) := by
  cases hscan
  cases hevs
  rw [exec_decodeStream, decodeBuffer_of_detect hdet]
  exact (finishPass_acceptAll_answered (s := resetAssembler (scan buf s).1) rfl _ .done).symm

/-- Settles O58. -/
theorem decodeIsItsExpansion : Obligations.DecodeIsItsExpansion := by
  refine fun buf s => ⟨rfl, fun hno => decodeBuffer_of_not_detect (detect_of_exec hno) s, fun hyes u evs hscan hevs => ?_⟩
  have hdecode := exec_decodeStream_of_scan (detect_of_exec hyes) hscan hevs
  refine ⟨fun t as hrun => ?bundle, fun before ev after t t' as r hsplit hrun ht haccept hraised => ?fault, fun hskip => ?empty⟩
  case bundle =>
    obtain ⟨v, bs, hreset, hpass⟩ := execAll_cons_some hrun
    cases hreset
    obtain ⟨w, hw, hok, rfl⟩ := acceptAll_of_execAll_getblocks hpass
    refine ⟨getBlocks w.store w.prof, rfl, ?_⟩
    rw [hdecode, hw]
    exact finishPass_ok hok
  case fault =>
    obtain ⟨v, bs, hreset, hpass⟩ := execAll_cons_some hrun
    cases hreset
    have hfaulted := accept_raised haccept hraised
    refine ⟨?_, hfaulted⟩
    rw [hdecode, hsplit, acceptAll_append (acceptAll_of_execAll hpass ht) ht, acceptAll_cons_faulted haccept hfaulted]
    exact finishDecode_faulted hfaulted
  case empty =>
    obtain ⟨log, a, hpass⟩ := acceptAll_of_unknownCommands hskip (s := (resetAssembler u).answered .done) rfl
    refine ⟨_, hdecode.trans ((congrArg finishPass hpass).trans (finishPass_ok rfl)), ?_⟩
    have hblocks : getBlocks [] none = [] := getBlocks_nil none
    exact congrArg (fun blocks => Answer.bundle ⟨none, blocks, .sysex, [], none⟩) hblocks

end Sys2Proof.Machine
end

section
/-! The stream ENCODE emits is the concatenation of its events (R184, R188), the detector takes it (R150), and its ordinals run
through the blocks one after another. -/

namespace Sys2Proof.Machine

/-! ## Firmware events -/

theorem firmwareEvent_wellFormed (p : Profile) (sub : Half) (data : Buffer) : (firmwareEvent p sub data).wellFormed = true :=
  List.all_eq_true.2 fun _ hb => clean_of_mem_packGroups hb

/-- SB.WRAP of a built record emits its firmware event (R181). -/
theorem sbWrap_record {p : Profile} (hk : p.midiKey ≠ []) (sub : Half) {data : Buffer} (hd : data.length = 256) :
    sbWrap p (recordBytesOf sub (ck data) data) = .value (firmwareEvent p sub data).bytes := by
  rw [sbWrap, if_pos (by rw [recordBytesOf_length, hd]), carry, xork_of_ne hk]
  exact buildEvent_of_wellFormed (firmwareEvent_wellFormed p sub data)

theorem flatMap_bytes_singleton (e : Event) : [e].flatMap Event.bytes = e.bytes := List.flatMap_singleton _ _

/-- A queued message of at most 256 bytes is emitted as its event, an ordinal without one emits nothing (R184). -/
theorem emitMessage_eq {p : Profile} (hk : p.midiKey ≠ []) {m : Texts} {o : Nat}
    (hm : ∀ text, lookupKey o m = some text → text.length ≤ 256) :
    emitMessage p m o = .value ((messageEvents p m o).flatMap Event.bytes) := by
  cases h : lookupKey o m with
  | none => rw [emitMessage, messageEvents, h]; rfl
  | some text =>
    have hlen := hm text h
    rw [emitMessage, messageEvents, h]
    dsimp only
    rw [msgBuild_of_length hlen, Calc.andThen_value, sbWrap_record hk _ (padText_length hlen), flatMap_bytes_singleton]
    rfl

/-! ## Sub-blocks and blocks -/

theorem subNumber_eq (blk : Nat) {j : Nat} (hj : j < 16) : subNumber blk j = BitVec.ofNat 16 (16 * blk + j) := by
  rw [subNumber, ← Nat.shiftLeft_add_eq_or_of_lt (i := 4) hj, Nat.shiftLeft_eq, Nat.mul_comm]

theorem blockOfAddress_eq (a : Nat) : blockOfAddress a = a / 4096 := Nat.shiftRight_eq_div_pow a 12

/-- ENCODE enciphers a block exactly as the block map deciphers it (R135). -/
theorem sentBlock_eq_asBlock (p : Profile) (a : Nat) (image : Buffer) (i : Nat) :
    sentBlock p a image i = asBlock (some p) (a / 4096 + i) ((image.drop (4096 * i)).take 4096) := by
  rw [asBlock_selected, sentBlock]

theorem asBlock_length (prof : Option Profile) (i : Nat) (x : Buffer) : (asBlock prof i x).length = x.length := by
  rcases asBlock_cases prof i x with h | h <;> rw [h]
  exact cipher_length _ x

/-- The cipher of a block undoes itself (R133). -/
theorem asBlock_asBlock (prof : Option Profile) (i : Nat) (x : Buffer) : asBlock prof i (asBlock prof i x) = x := by
  unfold asBlock
  split
  · exact cipher_cipher _ x
  · rfl

theorem sentBlock_length {image : Buffer} {n i : Nat} (himage : image.length = 4096 * n) (hi : i < n) (p : Profile) (a : Nat) :
    (sentBlock p a image i).length = 4096 := by
  rw [sentBlock_eq_asBlock, asBlock_length, List.length_take, List.length_drop]
  omega

/-- If every item emits the bytes of its events, the whole emits the bytes of all of them. -/
theorem gather_events {α : Type} {f : α → Calc Buffer} {g : α → List Event} {as : List α}
    (h : ∀ a ∈ as, f a = .value ((g a).flatMap Event.bytes)) : gather f as = .value ((as.flatMap g).flatMap Event.bytes) := by
  rw [gather_value h, List.flatMap_assoc]

/-- The events of sub-block `j` of block `i`: the queued message, then the flash record (R184 step 3). -/
theorem emitSub_eq {p : Profile} (hk : p.midiKey ≠ []) {m : Texts} {a i j : Nat} {image : Buffer}
    (hblock : (sentBlock p a image i).length = 4096) (hj : j < 16)
    (hm : ∀ text, lookupKey (16 * i + j) m = some text → text.length ≤ 256) :
    emitSub p m (a / 4096 + i) (16 * i) (sentBlock p a image i) j =
      .value ((messageEvents p m (16 * i + j) ++ [flashEvent p a image i j]).flatMap Event.bytes) := by
  have hd : (slice (sentBlock p a image i) (256 * j) 256).length = 256 := by
    rw [slice, List.length_take, List.length_drop]
    omega
  rw [emitSub, emitMessage_eq hk hm, Calc.andThen_value, sbBuild_of_length hd, Calc.andThen_value, sbWrap_record hk _ hd,
    Calc.andThen_value, List.flatMap_append, flatMap_bytes_singleton, subNumber_eq _ hj]
  rfl

theorem emitBlock_eq {p : Profile} (hk : p.midiKey ≠ []) {m : Texts} {a i : Nat} {image : Buffer}
    (hblock : (sentBlock p a image i).length = 4096)
    (hm : ∀ j, j < 16 → ∀ text, lookupKey (16 * i + j) m = some text → text.length ≤ 256) :
    emitBlock p a image m i = .value (((List.range 16).flatMap fun j =>
      messageEvents p m (16 * i + j) ++ [flashEvent p a image i j]).flatMap Event.bytes) := by
  have hsent : encipherBlock p (a / 4096 + i) (slice image (4096 * i) 4096) = sentBlock p a image i :=
    (sentBlock_eq_asBlock p a image i).symm
  rw [emitBlock, blockOfAddress_eq, hsent]
  exact gather_events fun j hj => emitSub_eq hk hblock (List.mem_range.1 hj) (hm j (List.mem_range.1 hj))

/-! ## The stream -/

theorem padBlocks_length (b : Buffer) : (padBlocks b).length = 4096 * blocksOf b.length := by
  rw [padBlocks, List.length_append, List.length_replicate, blocksOf]
  omega

theorem emitStream_eq {p : Profile} (hk : p.midiKey ≠ []) {m : Texts} {a : Nat} {b : Buffer}
    (hrange : a / 4096 + blocksOf b.length ≤ 0x80)
    (hm : ∀ o, o ≤ 16 * blocksOf b.length → ∀ text, lookupKey o m = some text → text.length ≤ 256) :
    emitStream p a m b = .value ((streamEvents p a (padBlocks b) m (blocksOf b.length)).flatMap Event.bytes) := by
  have hblocks := gather_events (as := List.range (blocksOf b.length)) fun i hi => by
    have hi' := List.mem_range.1 hi
    exact emitBlock_eq hk (sentBlock_length (padBlocks_length b) hi' p a) fun j hj => hm (16 * i + j) (by omega)
  rw [emitStream, blockOfAddress_eq, if_neg (by omega), hblocks, Calc.andThen_value, emitMessage_eq hk (hm _ le_rfl),
    Calc.andThen_value, streamEvents, List.flatMap_append]

/-- The image before its padding (R185). -/
def keyedImage (p : Profile) (a : Nat) (b : Buffer) : Buffer := if a = p.appStart then xorFrom p.appKey 0 b else b

theorem keyedImage_length (p : Profile) (a : Nat) (b : Buffer) : (keyedImage p a b).length = b.length := by
  rw [keyedImage]
  split
  · exact xorFrom_length _ _ _
  · rfl

theorem padBlocks_keyedImage (p : Profile) (a : Nat) (b : Buffer) : padBlocks (keyedImage p a b) = flashImage p a b := by
  rw [padBlocks, keyedImage_length]
  rfl

theorem flashImage_length (p : Profile) (a : Nat) (b : Buffer) :
    (flashImage p a b).length = 4096 * ((b.length + 4095) / 4096) := by
  rw [← padBlocks_keyedImage, padBlocks_length, keyedImage_length, blocksOf]

theorem applyAppKey_eq {p : Profile} (hk : p.appKey ≠ []) (a : Nat) (b : Buffer) :
    applyAppKey p a b = .value (keyedImage p a b) := by
  rw [applyAppKey, keyedImage, xork_of_ne hk]
  split <;> rfl

/-- ENCODE at an aligned address, with blocks within the chip and messages of legal length, emits the bytes of its events
(R184, R188). -/
theorem encodeStream_eq {profiles : List Profile} {p : Profile} (hp : p ∈ profiles) (hmidi : p.midiKey ≠ [])
    (happ : p.appKey ≠ []) {a n : Nat} {b : Buffer} {m : Texts} (ha : a % 4096 = 0) (hn : n = (b.length + 4095) / 4096)
    (hrange : a / 4096 + n ≤ 0x80) (hm : ∀ o, o ≤ 16 * n → ∀ text, lookupKey o m = some text → text.length ≤ 256) :
    encodeStream profiles p a b m = .value ((streamEvents p a (flashImage p a b) m n).flatMap Event.bytes) := by
  have hblocks : blocksOf (keyedImage p a b).length = n := by rw [keyedImage_length, hn, blocksOf]
  rw [encodeStream, if_pos hp, if_pos ha, applyAppKey_eq happ, Calc.andThen_value,
    emitStream_eq hmidi (by rwa [hblocks]) (by rwa [hblocks]), padBlocks_keyedImage, hblocks]

/-- A profile is legal only with both keys (R34). -/
theorem keys_ne_nil {p : Profile} (hp : p.wellFormed = true) : p.midiKey ≠ [] ∧ p.appKey ≠ [] := by
  simp only [Profile.wellFormed, Bool.and_eq_true, decide_eq_true_eq] at hp
  obtain ⟨⟨⟨⟨⟨hmidi, happ⟩, -⟩, -⟩, -⟩, -⟩ := hp
  exact ⟨List.ne_nil_of_length_pos hmidi, List.ne_nil_of_length_pos (by omega)⟩

theorem exec_encodeImage (p : Profile) (a : Nat) (b : Buffer) (m : Texts) (s : State) :
    exec (.encodeImage p a b m) s = deliver (encodeStream s.profiles p a b m) .bytes s := rfl

/-! ## The stream by its ordinals -/

/-- Two loops, one inside the other, as one loop over the products. -/
theorem flatMap_range_mul {α : Type} (f : Nat → List α) (c n : Nat) :
    ((List.range n).flatMap fun i => (List.range c).flatMap fun j => f (c * i + j)) = (List.range (c * n)).flatMap f := by
  induction n with
  | zero => rfl
  | succ n ih =>
    rw [List.range_succ, List.flatMap_append, ih, List.flatMap_singleton, Nat.mul_succ, List.range_add, List.flatMap_append,
      List.flatMap_map]

/-- The data of the sub-block sent at ordinal `o`. -/
def sentData (p : Profile) (a : Nat) (image : Buffer) (o : Nat) : Buffer :=
  ((sentBlock p a image (o / 16)).drop (256 * (o % 16))).take 256

/-- The events of ordinal `o`: the queued message, then sub-block `o` of the image, counted from the block of the address. -/
def ordinalEvents (p : Profile) (a : Nat) (image : Buffer) (m : Texts) (o : Nat) : List Event :=
  messageEvents p m o ++ [firmwareEvent p (BitVec.ofNat 16 (16 * (a / 4096) + o)) (sentData p a image o)]

theorem flashEvent_eq (p : Profile) (a : Nat) (image : Buffer) (i : Nat) {j : Nat} (hj : j < 16) : flashEvent p a image i j =
    firmwareEvent p (BitVec.ofNat 16 (16 * (a / 4096) + (16 * i + j))) (sentData p a image (16 * i + j)) := by
  have hblock : (16 * i + j) / 16 = i := by omega
  have hsub : (16 * i + j) % 16 = j := by omega
  rw [flashEvent, sentData, hblock, hsub, Nat.mul_add, Nat.add_assoc]

theorem streamEvents_eq (p : Profile) (a : Nat) (image : Buffer) (m : Texts) (n : Nat) : streamEvents p a image m n =
    (List.range (16 * n)).flatMap (ordinalEvents p a image m) ++ messageEvents p m (16 * n) := by
  rw [streamEvents, ← flatMap_range_mul]
  congr 1
  refine List.flatMap_congr fun i _ => List.flatMap_congr fun j hj => ?_
  rw [ordinalEvents, flashEvent_eq p a image i (List.mem_range.1 hj)]

theorem sentData_length {image : Buffer} {n o : Nat} (himage : image.length = 4096 * n) (ho : o < 16 * n) (p : Profile)
    (a : Nat) : (sentData p a image o).length = 256 := by
  have hblock := sentBlock_length himage (i := o / 16) (by omega) p a
  rw [sentData, List.length_take, List.length_drop, hblock]
  omega

/-- `Carries p e`: `e` is a firmware event that carries a built record under `p`. -/
def Carries (p : Profile) (e : Event) : Prop := ∃ sub data, data.length = 256 ∧ e = firmwareEvent p sub data

theorem carries_messageEvents (p : Profile) {m : Texts} (hm : ∀ x ∈ m, x.2.length ≤ 256) (o : Nat) :
    ∀ e ∈ messageEvents p m o, Carries p e := by
  intro e he
  cases h : lookupKey o m with
  | none =>
    rw [messageEvents, h] at he
    cases he
  | some text =>
    rw [messageEvents, h] at he
    exact ⟨_, _, padText_length (hm _ (mem_of_lookupKey h)), List.mem_singleton.1 he⟩

theorem carries_streamEvents (p : Profile) (a : Nat) {image : Buffer} {m : Texts} {n : Nat} (himage : image.length = 4096 * n)
    (hm : ∀ x ∈ m, x.2.length ≤ 256) : ∀ e ∈ streamEvents p a image m n, Carries p e := by
  intro e he
  rw [streamEvents_eq, List.mem_append, List.mem_flatMap] at he
  rcases he with ⟨o, ho, he⟩ | he
  · rcases List.mem_append.1 he with he | he
    · exact carries_messageEvents p hm o e he
    · exact ⟨_, _, sentData_length himage (List.mem_range.1 ho) p a, List.mem_singleton.1 he⟩
  · exact carries_messageEvents p hm _ e he

theorem streamEvents_ne_nil (p : Profile) (a : Nat) (image : Buffer) (m : Texts) {n : Nat} (hn : 0 < n) :
    streamEvents p a image m n ≠ [] := by
  have hfirst : (0 : Nat) ∈ List.range (16 * n) := List.mem_range.2 (by omega)
  rw [streamEvents_eq]
  intro h
  have hnone := List.flatMap_eq_nil_iff.1 (List.append_eq_nil_iff.1 h).1 0 hfirst
  simp [ordinalEvents] at hnone

/-! ## The detector -/

/-- Every byte of a built event is clean or one of the two that bound it. -/
theorem mem_bytes_range {e : Event} (he : e.wellFormed = true) {b : Byte} (hb : b ∈ e.bytes) :
    b.toNat < 0x80 ∨ 0xF0 ≤ b.toNat := by
  rw [Event.bytes_eq_body, List.mem_cons, List.mem_append, List.mem_singleton] at hb
  rcases hb with rfl | hb | rfl
  · exact .inr (by decide)
  · exact .inl ((clean_iff_toNat_lt b).1 (Event.clean_of_mem_body he b hb))
  · exact .inr (by decide)

/-- A stream of built events is one the detector takes (R150). -/
theorem detect_flatMap_bytes {evs : List Event} (hne : evs ≠ []) (hevs : ∀ e ∈ evs, e.wellFormed = true) :
    detect (evs.flatMap Event.bytes) = true := by
  have hmem : ∀ b ∈ evs.flatMap Event.bytes, b.toNat < 0x80 ∨ 0xF0 ≤ b.toNat := by
    intro b hb
    obtain ⟨e, he, hbe⟩ := List.mem_flatMap.1 hb
    exact mem_bytes_range (hevs e he) hbe
  have hlast : (evs.flatMap Event.bytes).getLast? = some 0xF7 := by
    rw [← List.dropLast_append_getLast hne, List.flatMap_append, flatMap_bytes_singleton, Event.bytes_eq_body,
      ← List.cons_append, ← List.append_assoc, List.getLast?_concat]
  obtain ⟨e, es, rfl⟩ := List.exists_cons_of_ne_nil hne
  rw [List.getLast?_eq_getElem?] at hlast
  refine (detect_iff _).2 ⟨?_, ?_, hlast, fun j _ _ b hb => hmem b (List.mem_of_getElem? hb)⟩
  · rw [List.flatMap_cons, Event.bytes_eq_body]
    simp only [List.length_append, List.length_cons, List.length_nil]
    omega
  · rw [List.flatMap_cons, Event.bytes_eq_body]
    rfl

end Sys2Proof.Machine
end

section
/-! The round trip (R175): the pass over an emitted stream, ordinal by ordinal, the store and the messages it leaves, and the
block map of that store. -/

namespace Sys2Proof.Machine

/-! ## The store of a run of sub-blocks -/

/-- The store once `count` sub-blocks have been written under the numbers from `base` on. -/
def storedRun (base : Nat) (data : Nat → Buffer) : Nat → Memory
  | 0 => []
  | count + 1 => (storedRun base data count).write (base + count) (data count)

theorem read_storedRun (base : Nat) (data : Nat → Buffer) (count key : Nat) : (storedRun base data count).read key =
    if base ≤ key ∧ key < base + count then some (data (key - base)) else none := by
  induction count with
  | zero => rw [if_neg (by omega)]; rfl
  | succ count ih =>
    rw [storedRun]
    by_cases hkey : key = base + count
    · subst hkey
      rw [Memory.read_write_same, if_pos (by omega), Nat.add_sub_cancel_left]
    · have hrange : (base ≤ key ∧ key < base + (count + 1)) ↔ (base ≤ key ∧ key < base + count) := by omega
      rw [Memory.read_write_other _ _ hkey, ih]
      simp only [hrange]

/-! ## The messages of the ordinals so far -/

/-- The messages under ordinals below `o`. -/
def messagesBefore (m : Texts) (o : Nat) : Texts := m.filter fun x => decide (x.1 < o)

/-- The message queued for ordinal `o`, if there is one. -/
def messageAt (m : Texts) (o : Nat) : Texts := (lookupKey o m).toList.map fun text => (o, text)

theorem messagesBefore_zero (m : Texts) : messagesBefore m 0 = [] := by simp [messagesBefore]

theorem messagesBefore_of_all {m : Texts} {o : Nat} (h : ∀ x ∈ m, x.1 < o) : messagesBefore m o = m :=
  List.filter_eq_self.2 fun x hx => decide_eq_true (h x hx)

theorem messagesBefore_of_none {m : Texts} {o : Nat} (h : ∀ x ∈ m, o ≤ x.1) : messagesBefore m o = [] :=
  List.filter_eq_nil_iff.2 fun x hx => by have := h x hx; simp; omega

theorem messageAt_of_lt {m : Texts} {o : Nat} (h : ∀ x ∈ m, o < x.1) : messageAt m o = [] := by
  cases hl : lookupKey o m with
  | none => rw [messageAt, hl]; rfl
  | some text => exact absurd (h _ (mem_of_lookupKey hl)) (lt_irrefl o)

/-- Messages in rising order come one ordinal after another. -/
theorem messagesBefore_succ {m : Texts} (hm : m.Pairwise fun x y => x.1 < y.1) (o : Nat) :
    messagesBefore m (o + 1) = messagesBefore m o ++ messageAt m o := by
  induction m with
  | nil => rfl
  | cons x m ih =>
    obtain ⟨k, text⟩ := x
    obtain ⟨hk, hrest⟩ := List.pairwise_cons.1 hm
    have hcons : ∀ n, messagesBefore ((k, text) :: m) n =
        if k < n then (k, text) :: messagesBefore m n else messagesBefore m n :=
      fun n => by simp [messagesBefore, List.filter_cons]
    have hat : messageAt ((k, text) :: m) o = if k = o then [(o, text)] else messageAt m o := by
      rw [messageAt, lookupKey_cons]
      split <;> rfl
    rw [hcons, hcons, hat]
    rcases Nat.lt_trichotomy k o with hlt | rfl | hgt
    · rw [if_pos (by omega), if_pos hlt, if_neg (by omega), ih hrest, List.cons_append]
    · have hlater : ∀ x ∈ m, k + 1 ≤ x.1 := fun x hx => hk x hx
      rw [if_pos (by omega), if_neg (by omega), if_pos rfl, messagesBefore_of_none hlater,
        messagesBefore_of_none fun x hx => Nat.le_of_lt (hk x hx)]
      rfl
    · have hlater : ∀ x ∈ m, o < x.1 := fun x hx => hgt.trans (hk x hx)
      rw [if_neg (by omega), if_neg (by omega), if_neg (by omega), messageAt_of_lt hlater, List.append_nil,
        messagesBefore_of_none hlater, messagesBefore_of_none fun x hx => Nat.le_of_lt (hlater x hx)]

/-! ## The pass under one profile -/

/-- The state of a pass under the profile `p`, all of whose events came from a device of its model. -/
def passState (p : Profile) (s : State) (store : Memory) (ord : Nat) (msgs : Texts) : State :=
  { s with prof := some p, seenModel := some p.modelId, store := store, ord := ord, msgs := msgs, answer := .done }

section
variable {p : Profile} (hk : p.midiKey ≠ []) {s : State} (hs : s.asmStatus = .ok)
include hk hs

/-- A verified sub-block goes into the store and is counted (R163 step 5). -/
theorem accept_firmwareEvent_flash {sub : Half} (hsub : sub ≠ 0xFF00) {data : Buffer} (hd : data.length = 256) (store : Memory)
    (ord : Nat) (msgs : Texts) : accept (firmwareEvent p sub data) (passState p s store ord msgs) =
      .next (passState p s (store.write sub.toNat data) (ord + 1) msgs) := by
  have haccept := accept_flashRecord (s := passState p s store ord msgs) hs rfl hk 0x7F p.modelId hsub (ck data) hd []
  rw [List.append_nil, fileFlash_verified] at haccept
  exact haccept

/-- A message is filed under the current ordinal (R163 step 4). -/
theorem accept_firmwareEvent_message {text : Buffer} (hlen : text.length ≤ 256) (hzero : (0 : Byte) ∉ text) (store : Memory)
    (ord : Nat) (msgs : Texts) : accept (firmwareEvent p 0xFF00 (padText text)) (passState p s store ord msgs) =
      .next (passState p s store ord (msgs ++ [(ord, text)])) := by
  have haccept := accept_messageRecord (s := passState p s store ord msgs) hs rfl hk 0x7F p.modelId (ck (padText text))
    (padText_length hlen) []
  have htext : textOf (padText text) = text := textOf_append_rep hzero _
  rw [List.append_nil, fileMessage, htext] at haccept
  exact haccept

theorem acceptAll_messageEvents {m : Texts} (hm : ∀ x ∈ m, x.2.length ≤ 256 ∧ (0 : Byte) ∉ x.2) (store : Memory) (o : Nat)
    (msgs : Texts) : acceptAll (messageEvents p m o) (passState p s store o msgs) =
      .next (passState p s store o (msgs ++ messageAt m o)) := by
  cases h : lookupKey o m with
  | none =>
    rw [messageEvents, messageAt, h]
    exact congrArg (fun l => Host.Outcome.next (passState p s store o l)) (List.append_nil msgs).symm
  | some text =>
    obtain ⟨hlen, hzero⟩ := hm _ (mem_of_lookupKey h)
    rw [messageEvents, messageAt, h]
    exact acceptAll_cons_ok (accept_firmwareEvent_message hk hs hlen hzero store o msgs) hs []

variable {a n : Nat} {image : Buffer} (himage : image.length = 4096 * n) (hrange : a / 4096 + n ≤ 0x80) {m : Texts}
  (hm : ∀ x ∈ m, x.2.length ≤ 256 ∧ (0 : Byte) ∉ x.2) (hsorted : m.Pairwise fun x y => x.1 < y.1)
include himage hrange hm hsorted

/-- One ordinal: its message joins those before it, its sub-block the store. -/
theorem acceptAll_ordinalEvents {o : Nat} (ho : o < 16 * n) :
    acceptAll (ordinalEvents p a image m o)
        (passState p s (storedRun (16 * (a / 4096)) (sentData p a image) o) o (messagesBefore m o)) =
      .next (passState p s (storedRun (16 * (a / 4096)) (sentData p a image) (o + 1)) (o + 1) (messagesBefore m (o + 1))) := by
  have hnumber : (BitVec.ofNat 16 (16 * (a / 4096) + o)).toNat = 16 * (a / 4096) + o := by
    rw [BitVec.toNat_ofNat]
    omega
  have hsub : BitVec.ofNat 16 (16 * (a / 4096) + o) ≠ (0xFF00 : Half) := fun h => by
    have hbig : 16 * (a / 4096) + o = 0xFF00 := hnumber.symm.trans (congrArg BitVec.toNat h)
    omega
  have hflash := accept_firmwareEvent_flash hk hs hsub (sentData_length himage ho p a)
    (storedRun (16 * (a / 4096)) (sentData p a image) o) o (messagesBefore m (o + 1))
  rw [hnumber] at hflash
  rw [ordinalEvents, acceptAll_append (acceptAll_messageEvents hk hs hm _ o _) hs, ← messagesBefore_succ hsorted]
  exact acceptAll_cons_ok hflash hs []

theorem acceptAll_ordinals {count : Nat} (hcount : count ≤ 16 * n) :
    acceptAll ((List.range count).flatMap (ordinalEvents p a image m)) (passState p s [] 0 []) =
      .next (passState p s (storedRun (16 * (a / 4096)) (sentData p a image) count) count (messagesBefore m count)) := by
  induction count with
  | zero => rw [messagesBefore_zero]; rfl
  | succ count ih =>
    rw [List.range_succ, List.flatMap_append, acceptAll_append (ih (by omega)) hs, List.flatMap_singleton]
    exact acceptAll_ordinalEvents hk hs himage hrange hm hsorted (by omega)

/-- A whole stream leaves its sub-blocks in the store and its messages in order. -/
theorem acceptAll_streamEvents (hlast : ∀ x ∈ m, x.1 ≤ 16 * n) :
    acceptAll (streamEvents p a image m n) (passState p s [] 0 []) =
      .next (passState p s (storedRun (16 * (a / 4096)) (sentData p a image) (16 * n)) (16 * n) m) := by
  have hall : messagesBefore m (16 * n) ++ messageAt m (16 * n) = m := by
    rw [← messagesBefore_succ hsorted, messagesBefore_of_all fun x hx => Nat.lt_succ_of_le (hlast x hx)]
  rw [streamEvents_eq, acceptAll_append (acceptAll_ordinals hk hs himage hrange hm hsorted le_rfl) hs,
    acceptAll_messageEvents hk hs hm, hall]

end

/-! ## The first event selects the profile -/

/-- The trial of the profile that carried a record matches (R111, R166). -/
theorem identify_carried {p : Profile} (hk : p.midiKey ≠ []) {sub : Half} {data : Buffer} (hd : data.length = 256) (m : Seven)
    (rest : List Profile) : ∃ u, unpack (payloadOf p.midiKey (recordBytesOf sub (ck data) data)) = .value u ∧ 259 ≤ u.length ∧
      identify u m (p :: rest) = .value p := by
  obtain ⟨u, tail, hu, hlen, hxor⟩ := unpack_payloadOf p.midiKey (recordBytesOf sub (ck data) data)
  rw [recordBytesOf_length, hd] at hlen
  exact ⟨u, hu, hlen, identify_first hk (trialOk_of_record hd hxor) m rest⟩

/-- An acceptance that finds no `seen_model` notes its own (R32). -/
theorem accept_of_unseen {s : State} (hs : s.asmStatus = .ok) (hseen : s.seenModel = none) {payload u : Buffer}
    (hu : unpack payload = .value u) (hlen : 259 ≤ u.length) (d m : Seven) :
    accept ⟨d, m, 0x34, payload⟩ s = accept ⟨d, m, 0x34, payload⟩ { s with seenModel := some m } := by
  have hnote : noteModel m s = noteModel m { s with seenModel := some m } := by rw [noteModel, hseen]; rfl
  rw [accept_eq_acceptFirmware hs, accept_eq_acceptFirmware (s := { s with seenModel := some m }) hs,
    acceptFirmware_of_long hu hlen, acceptFirmware_of_long hu hlen, hnote]

/-- The first event of a pass, carried under the first profile of the registry, is accepted as if that profile and its model had
been noted before (R163, R168). -/
theorem accept_first {p : Profile} (hk : p.midiKey ≠ []) {s : State} {rest : List Profile} (hps : s.profiles = p :: rest)
    {e : Event} (he : Carries p e) :
    accept e (resetAssembler s) = accept e (passState p (resetAssembler s) [] 0 []) := by
  obtain ⟨sub, data, hd, rfl⟩ := he
  obtain ⟨u, hu, hlen, hident⟩ := identify_carried hk hd (sub := sub) p.modelId rest
  rw [← hps] at hident
  calc accept (firmwareEvent p sub data) (resetAssembler s)
      = accept (firmwareEvent p sub data) { resetAssembler s with prof := some p } :=
        accept_of_identified (s := resetAssembler s) rfl rfl hu hlen hident 0x7F
    _ = accept (firmwareEvent p sub data) { resetAssembler s with prof := some p, seenModel := some p.modelId } :=
        accept_of_unseen (s := { resetAssembler s with prof := some p }) rfl rfl hu hlen 0x7F p.modelId
    _ = accept (firmwareEvent p sub data) (passState p (resetAssembler s) [] 0 []) :=
        (accept_answered _ { resetAssembler s with prof := some p, seenModel := some p.modelId } .done).symm

theorem acceptAll_first {p : Profile} (hk : p.midiKey ≠ []) {s : State} {rest : List Profile} (hps : s.profiles = p :: rest)
    {evs : List Event} (hne : evs ≠ []) (hevs : ∀ e ∈ evs, Carries p e) :
    acceptAll evs (resetAssembler s) = acceptAll evs (passState p (resetAssembler s) [] 0 []) := by
  obtain ⟨e, es, rfl⟩ := List.exists_cons_of_ne_nil hne
  rw [acceptAll_cons, acceptAll_cons, accept_first hk hps (hevs e List.mem_cons_self)]

/-! ## DECODE of the stream -/

/-- The state in which the pass over the stream of `image` at `a` with the messages `m` ends. -/
def decodedState (p : Profile) (s : State) (a : Nat) (image : Buffer) (m : Texts) (n : Nat) : State :=
  passState p (resetAssembler (resetParser s)) (storedRun (16 * (a / 4096)) (sentData p a image) (16 * n)) (16 * n) m

/-- DECODE of an emitted stream completes with the bundle of that state (R174, R175). -/
theorem exec_decodeStream_streamEvents {p : Profile} (hk : p.midiKey ≠ []) {s : State} {rest : List Profile}
    (hps : s.profiles = p :: rest) {a n : Nat} (hn : 0 < n) {image : Buffer} (himage : image.length = 4096 * n)
    (hrange : a / 4096 + n ≤ 0x80) {m : Texts} (hsorted : m.Pairwise fun x y => x.1 < y.1)
    (hm : ∀ x ∈ m, x.1 ≤ 16 * n ∧ x.2.length ≤ 256 ∧ (0 : Byte) ∉ x.2) :
    exec (.decodeStream ((streamEvents p a image m n).flatMap Event.bytes)) s =
      .next ({ decodedState p s a image m n with format := .sysex }.answered
        (.bundle (bundleOf (decodedState p s a image m n)))) := by
  have hlast : ∀ x ∈ m, x.1 ≤ 16 * n := fun x hx => (hm x hx).1
  have htext : ∀ x ∈ m, x.2.length ≤ 256 ∧ (0 : Byte) ∉ x.2 := fun x hx => (hm x hx).2
  have hcarries := carries_streamEvents p a himage fun x hx => (htext x hx).1
  have hwf : ∀ e ∈ streamEvents p a image m n, e.wellFormed = true := fun e he => by
    obtain ⟨sub, data, -, rfl⟩ := hcarries e he
    exact firmwareEvent_wellFormed p sub data
  have hne := streamEvents_ne_nil p a image m hn
  have hpass : acceptAll (streamEvents p a image m n) (resetAssembler (resetParser s)) = .next (decodedState p s a image m n) :=
    (acceptAll_first (s := resetParser s) hk hps hne hcarries).trans
      (acceptAll_streamEvents hk (s := resetAssembler (resetParser s)) rfl himage hrange htext hsorted hlast)
  rw [exec_decodeStream, decodeBuffer_of_detect (detect_flatMap_bytes hne hwf), scan_flatMap_bytes hwf]
  exact (congrArg finishPass hpass).trans (finishPass_ok rfl)

/-! ## The blocks of the decoded store -/

/-- Sixteen sub-blocks sent of one block make the block as it was sent. -/
theorem flatMap_sentData {image : Buffer} {n i : Nat} (himage : image.length = 4096 * n) (hi : i < n) (p : Profile) (a : Nat) :
    ((List.range 16).flatMap fun j => sentData p a image (16 * i + j)) = sentBlock p a image i := by
  have hpiece : ∀ j ∈ List.range 16, sentData p a image (16 * i + j) = ((sentBlock p a image i).drop (256 * j)).take 256 := by
    intro j hj
    have hj16 := List.mem_range.1 hj
    have hblock : (16 * i + j) / 16 = i := by omega
    have hsub : (16 * i + j) % 16 = j := by omega
    rw [sentData, hblock, hsub]
  rw [List.flatMap_congr hpiece, flatMap_range_take_drop, List.take_of_length_le (sentBlock_length himage hi p a).le]

/-- Block `i` of the decoded store: the block of the image that was sent under this index, deciphered again (R133). -/
theorem blockAt_storedRun {image : Buffer} {n : Nat} (himage : image.length = 4096 * n) (p : Profile) (a i : Nat) :
    blockAt (storedRun (16 * (a / 4096)) (sentData p a image) (16 * n)) (some p) i =
      if a / 4096 ≤ i ∧ i < a / 4096 + n then some ((image.drop (4096 * (i - a / 4096))).take 4096) else none := by
  by_cases hi : a / 4096 ≤ i ∧ i < a / 4096 + n
  · obtain ⟨c, rfl⟩ := Nat.exists_eq_add_of_le hi.1
    have hsub : ∀ j, j < 16 → (storedRun (16 * (a / 4096)) (sentData p a image) (16 * n)).read (16 * (a / 4096 + c) + j) =
        some (sentData p a image (16 * c + j)) := by
      intro j hj
      have hplace : 16 * (a / 4096 + c) + j - 16 * (a / 4096) = 16 * c + j := by omega
      rw [read_storedRun, if_pos (by omega), hplace]
    rw [if_pos hi, blockAt_of_present hsub, flatMap_sentData himage (by omega), sentBlock_eq_asBlock, asBlock_asBlock,
      Nat.add_sub_cancel_left]
  · have habsent : (storedRun (16 * (a / 4096)) (sentData p a image) (16 * n)).read (16 * i + 0) = none := by
      rw [read_storedRun, if_neg (by omega)]
    rw [if_neg hi, blockAt_of_absent (by omega) habsent]

/-- The block map of the decoded store holds the blocks of the image at their indices and no others. -/
theorem lookupKey_getBlocks_storedRun {image : Buffer} {n : Nat} (himage : image.length = 4096 * n) (p : Profile) {a : Nat}
    (hrange : a / 4096 + n ≤ 0x80) (i : Nat) :
    lookupKey i (getBlocks (storedRun (16 * (a / 4096)) (sentData p a image) (16 * n)) (some p)) =
      if a / 4096 ≤ i ∧ i < a / 4096 + n then some ((image.drop (4096 * (i - a / 4096))).take 4096) else none := by
  rw [lookupKey_getBlocks, blockAt_storedRun himage]
  by_cases hi : i < 0x80
  · rw [if_pos hi]
  · rw [if_neg hi, if_neg (by omega)]

/-- How many indices below a bound lie in a range below it. -/
theorem countP_range_interval {lo n bound : Nat} (h : lo + n ≤ bound) :
    (List.range bound).countP (fun i => decide (lo ≤ i ∧ i < lo + n)) = n := by
  obtain ⟨k, rfl⟩ : ∃ k, bound = lo + (n + k) := ⟨bound - lo - n, by omega⟩
  have hbelow : (List.range lo).countP (fun i => decide (lo ≤ i ∧ i < lo + n)) = 0 :=
    List.countP_eq_zero.2 fun i hi => by have := List.mem_range.1 hi; simp; omega
  have hinside : (List.range n).countP ((fun i => decide (lo ≤ i ∧ i < lo + n)) ∘ (lo + ·)) = n := by
    refine (List.countP_eq_length.2 fun i hi => ?_).trans List.length_range
    have := List.mem_range.1 hi
    simp
    omega
  have habove : (List.range k).countP (((fun i => decide (lo ≤ i ∧ i < lo + n)) ∘ (lo + ·)) ∘ (n + ·)) = 0 :=
    List.countP_eq_zero.2 fun i _ => by simp
  rw [List.range_add, List.countP_append, hbelow, List.countP_map, List.range_add, List.countP_append, hinside,
    List.countP_map, habove]
  omega

theorem getBlocks_storedRun_length {image : Buffer} {n : Nat} (himage : image.length = 4096 * n) (p : Profile) {a : Nat}
    (hrange : a / 4096 + n ≤ 0x80) :
    (getBlocks (storedRun (16 * (a / 4096)) (sentData p a image) (16 * n)) (some p)).length = n := by
  rw [getBlocks, List.length_filterMap_eq_countP]
  refine Eq.trans (List.countP_congr fun i _ => ?_) (countP_range_interval hrange)
  rw [Option.isSome_map, blockAt_storedRun himage, decide_eq_true_eq]
  split <;> simp [*]

/-! ## The obligations -/

/-- Under a legal profile that stands first in the registry, ENCODE answers the bytes of the stream's events. -/
theorem exec_encodeImage_streamEvents {s : State} {p : Profile} {rest : List Profile} (hps : s.profiles = p :: rest)
    (hwf : p.wellFormed = true) {a n : Nat} {b : Buffer} (ha : a % 4096 = 0) (hn : n = (b.length + 4095) / 4096)
    (hrange : a / 4096 + n ≤ 0x80) {m : Texts} (hm : ∀ x ∈ m, x.1 ≤ 16 * n ∧ x.2.length ≤ 256 ∧ (0 : Byte) ∉ x.2) :
    exec (.encodeImage p a b m) s =
      .next (s.answered (.bytes ((streamEvents p a (flashImage p a b) m n).flatMap Event.bytes))) := by
  obtain ⟨hmidi, happ⟩ := keys_ne_nil hwf
  have hlen : ∀ o, o ≤ 16 * n → ∀ text, lookupKey o m = some text → text.length ≤ 256 := fun o _ text htext => by
    obtain ⟨-, hshort, -⟩ := hm _ (mem_of_lookupKey htext)
    exact hshort
  rw [exec_encodeImage, hps, encodeStream_eq List.mem_cons_self hmidi happ ha hn hrange hlen, deliver_value]

/-- Settles O59: the pass stores the blocks as they were sent, and the block map deciphers them. -/
theorem encodeThenDecodeGivesTheImageBack : Obligations.EncodeThenDecodeGivesTheImageBack := by
  intro s p rest a n b hps hwf ha hb hn hrange
  have himage : (flashImage p a b).length = 4096 * n := by rw [flashImage_length, hn]
  obtain ⟨hk, -⟩ := keys_ne_nil hwf
  refine ⟨_, _, _, exec_encodeImage_streamEvents hps hwf ha hn hrange (m := []) (by simp),
    exec_decodeStream_streamEvents hk hps (by omega) himage hrange List.Pairwise.nil (by simp), rfl, rfl, rfl, rfl, rfl,
    getBlocks_storedRun_length himage p hrange, fun i => ?_⟩
  subst hn
  exact lookupKey_getBlocks_storedRun himage p hrange i

/-- Settles O60: the messages reach neither the store nor the profile of the pass. -/
theorem displayMessagesAreTransparent : Obligations.DisplayMessagesAreTransparent := by
  intro s p rest a n b m hps hwf ha hb hn hrange hsorted hm
  have himage : (flashImage p a b).length = 4096 * n := by rw [flashImage_length, hn]
  obtain ⟨hk, -⟩ := keys_ne_nil hwf
  have hnpos : 0 < n := by omega
  exact ⟨_, _, _, _, _, _, exec_encodeImage_streamEvents hps hwf ha hn hrange (m := []) (by simp),
    exec_encodeImage_streamEvents hps hwf ha hn hrange hm,
    exec_decodeStream_streamEvents hk hps hnpos himage hrange List.Pairwise.nil (by simp), rfl,
    exec_decodeStream_streamEvents hk hps hnpos himage hrange hsorted hm, rfl, rfl, rfl, rfl⟩

end Sys2Proof.Machine
end

section
/-! The encoder's side (R181, R184 to R188): the event of one record, the three checks of ENCODE, which messages a stream holds and
how many, and where a text that is too long ends it. -/

namespace Sys2Proof.Machine

/-! ## One record (R181) -/

theorem exec_sbWrap (p : Profile) (r : Buffer) (s : State) : exec (.sbWrap p r) s = deliver (sbWrap p r) .bytes s := rfl

/-- The event SB.WRAP makes of a record (R181). -/
def wrappedEvent (p : Profile) (r : Buffer) : Event := ⟨0x7F, p.modelId, 0x34, payloadOf p.midiKey r⟩

theorem wrappedEvent_wellFormed (p : Profile) (r : Buffer) : (wrappedEvent p r).wellFormed = true :=
  List.all_eq_true.2 fun _ hb => clean_of_mem_packGroups hb

/-- Ten bytes around 37 groups of eight (R79). -/
theorem wrappedEvent_bytes_length (p : Profile) {r : Buffer} (hr : r.length = 259) :
    (wrappedEvent p r).bytes.length = 304 := by
  have hpayload : (payloadOf p.midiKey r).length = 296 := by rw [payloadOf, pack_length, xorFrom_length, hr]
  rw [Event.bytes_eq_body, wrappedEvent, Event.body]
  simp only [List.length_append, List.length_cons, List.length_nil, hpayload]

theorem sbWrap_of_length {p : Profile} (hk : p.midiKey ≠ []) {r : Buffer} (hr : r.length = 259) :
    sbWrap p r = .value (wrappedEvent p r).bytes := by
  rw [sbWrap, if_pos hr, carry, xork_of_ne hk]
  exact buildEvent_of_wellFormed (wrappedEvent_wellFormed p r)

theorem sbWrap_of_length_ne {r : Buffer} (hr : r.length ≠ 259) (p : Profile) :
    sbWrap p r = .raise (.shortBlock r.length) := if_neg hr

/-- Settles O38. -/
theorem wrapMakesOneFirmwareEvent : Obligations.WrapMakesOneFirmwareEvent := by
  intro p r s hk
  refine ⟨rfl, fun hr => ⟨(wrappedEvent p r).bytes, rfl, wrappedEvent_bytes_length p hr, ?_⟩, fun hr => ?_⟩
  · rw [exec_sbWrap, sbWrap_of_length hk hr]
    rfl
  · rw [exec_sbWrap, sbWrap_of_length_ne hr]
    rfl

theorem firmwareEvent_eq_wrappedEvent (p : Profile) (sub : Half) (data : Buffer) :
    firmwareEvent p sub data = wrappedEvent p (recordBytesOf sub (ck data) data) := rfl

theorem Carries.bytes_length {p : Profile} {e : Event} (he : Carries p e) : e.bytes.length = 304 := by
  obtain ⟨sub, data, hd, rfl⟩ := he
  rw [firmwareEvent_eq_wrappedEvent, wrappedEvent_bytes_length p (by rw [recordBytesOf_length, hd])]

theorem Carries.wellFormed {p : Profile} {e : Event} (he : Carries p e) : e.wellFormed = true := by
  obtain ⟨sub, data, -, rfl⟩ := he
  exact firmwareEvent_wellFormed p sub data

/-! ## The checks (R229) -/

section
variable {profiles : List Profile} {p : Profile} {a : Nat}

theorem encodeStream_of_unregistered (hp : p ∉ profiles) (b : Buffer) (m : Texts) :
    encodeStream profiles p a b m = .raise (.unsupportedDevice p) := if_neg hp

theorem encodeStream_of_unaligned (hp : p ∈ profiles) (ha : a % 4096 ≠ 0) (b : Buffer) (m : Texts) :
    encodeStream profiles p a b m = .raise (.badAddress a none) := by
  rw [encodeStream, if_pos hp, if_neg ha]

/-- Behind the first two checks ENCODE is the emission of the keyed image (R184, R185). -/
theorem encodeStream_of_aligned (hp : p ∈ profiles) (ha : a % 4096 = 0) (happ : p.appKey ≠ []) (b : Buffer) (m : Texts) :
    encodeStream profiles p a b m = emitStream p a m (keyedImage p a b) := by
  rw [encodeStream, if_pos hp, if_pos ha, applyAppKey_eq happ, Calc.andThen_value]

theorem encodeStream_of_outside (hp : p ∈ profiles) (ha : a % 4096 = 0) (happ : p.appKey ≠ []) {b : Buffer}
    (hrange : 0x80 < a / 4096 + (b.length + 4095) / 4096) (m : Texts) :
    encodeStream profiles p a b m = .raise (.badAddress a (some ((b.length + 4095) / 4096))) := by
  rw [encodeStream_of_aligned hp ha happ, emitStream, blockOfAddress_eq, keyedImage_length, blocksOf, if_pos hrange]

end

/-- No block and no message: the empty stream. -/
theorem emitStream_nil (p : Profile) : emitStream p 0x80000 [] [] = .value [] := rfl

/-- Settles O56. -/
theorem encodeChecksInOrder : Obligations.EncodeChecksInOrder := by
  intro p a b m s
  simp only [exec_encodeImage]
  refine ⟨fun hp => ?_, fun hp ha => ?_, fun hp ha happ hrange => ?_, fun hp happ => ?_⟩
  · rw [encodeStream_of_unregistered hp]
    rfl
  · rw [encodeStream_of_unaligned hp ha]
    rfl
  · rw [encodeStream_of_outside hp ha happ hrange]
    rfl
  · have hempty : keyedImage p 0x80000 [] = [] := List.length_eq_zero_iff.1 (keyedImage_length p 0x80000 [])
    rw [encodeStream_of_aligned hp rfl happ, hempty, emitStream_nil]
    rfl

/-! ## The messages of a stream (R188) -/

/-- A map without a key has nothing under it. -/
theorem lookupKey_eq_none {k : Nat} {m : Texts} (h : ∀ x ∈ m, x.1 ≠ k) : lookupKey k m = none := by
  cases hl : lookupKey k m with
  | none => rfl
  | some text => exact absurd rfl (h _ (mem_of_lookupKey hl))

/-- In a map with one entry a key, every entry is the one found under its key. -/
theorem lookupKey_of_mem {m : Texts} (hm : Texts.wf m) {x : Nat × Buffer} (hx : x ∈ m) : lookupKey x.1 m = some x.2 := by
  induction m with
  | nil => cases hx
  | cons y m ih =>
    obtain ⟨hy, hm⟩ := List.pairwise_cons.1 hm
    rw [lookupKey_cons]
    rcases List.mem_cons.1 hx with rfl | hx
    · exact if_pos rfl
    · rw [if_neg (hy x hx), ih hm hx]

theorem messagesBefore_cons (x : Nat × Buffer) (m : Texts) (o : Nat) :
    messagesBefore (x :: m) o = if x.1 < o then x :: messagesBefore m o else messagesBefore m o := by
  simp [messagesBefore, List.filter_cons]

theorem lookupKey_messagesBefore (m : Texts) {o bound : Nat} (ho : o < bound) :
    lookupKey o (messagesBefore m bound) = lookupKey o m := by
  induction m with
  | nil => rfl
  | cons x m ih =>
    rw [messagesBefore_cons]
    split
    · rw [lookupKey_cons, ih, lookupKey_cons]
    · rw [ih, lookupKey_cons, if_neg (by omega)]

/-- Messages after the final ordinal are never emitted (R188). -/
theorem streamEvents_messagesBefore (p : Profile) (a : Nat) (image : Buffer) (m : Texts) (n : Nat) :
    streamEvents p a image (messagesBefore m (16 * n + 1)) n = streamEvents p a image m n := by
  have hsame : ∀ o, o ≤ 16 * n → messageEvents p (messagesBefore m (16 * n + 1)) o = messageEvents p m o := fun o ho => by
    rw [messageEvents, lookupKey_messagesBefore m (by omega), messageEvents]
  rw [streamEvents_eq, streamEvents_eq, hsame _ le_rfl]
  congr 1
  refine List.flatMap_congr fun o ho => ?_
  rw [ordinalEvents, ordinalEvents, hsame o (List.mem_range.1 ho).le]

theorem messageAt_length (m : Texts) (o : Nat) : (messageAt m o).length = (lookupKey o m).toList.length := List.length_map _

/-- One more ordinal brings at most one more message, the one found there. -/
theorem messagesBefore_succ_length {m : Texts} (hm : Texts.wf m) (o : Nat) :
    (messagesBefore m (o + 1)).length = (messagesBefore m o).length + (messageAt m o).length := by
  rw [messageAt_length]
  induction m with
  | nil => rfl
  | cons x m ih =>
    obtain ⟨hx, hm⟩ := List.pairwise_cons.1 hm
    rw [messagesBefore_cons, messagesBefore_cons, lookupKey_cons]
    rcases Nat.lt_trichotomy x.1 o with hlt | heq | hgt
    · rw [if_pos (by omega), if_pos hlt, if_neg (by omega), List.length_cons, List.length_cons, ih hm, Nat.add_right_comm]
    · have hnone : lookupKey o m = none := lookupKey_eq_none fun y hy => heq ▸ (hx y hy).symm
      rw [if_pos (by omega), if_neg (by omega), if_pos heq, List.length_cons, ih hm, hnone]
      rfl
    · rw [if_neg (by omega), if_neg (by omega), if_neg (by omega), ih hm]

theorem messageEvents_length (p : Profile) (m : Texts) (o : Nat) : (messageEvents p m o).length = (messageAt m o).length := by
  rw [messageEvents, messageAt_length]
  cases lookupKey o m <;> rfl

theorem ordinalEvents_flatMap_length (p : Profile) (a : Nat) (image : Buffer) {m : Texts} (hm : Texts.wf m) (count : Nat) :
    ((List.range count).flatMap (ordinalEvents p a image m)).length = count + (messagesBefore m count).length := by
  induction count with
  | zero => simp [messagesBefore_zero]
  | succ count ih =>
    rw [List.range_succ, List.flatMap_append, List.length_append, ih, List.flatMap_singleton, ordinalEvents, List.length_append,
      messageEvents_length, messagesBefore_succ_length hm, List.length_singleton]
    omega

/-- A stream holds an event for every sub-block and one for every message up to the final ordinal (R188). -/
theorem streamEvents_length (p : Profile) (a : Nat) (image : Buffer) {m : Texts} (hm : Texts.wf m) (n : Nat) :
    (streamEvents p a image m n).length = 16 * n + (m.filter fun x => decide (x.1 ≤ 16 * n)).length := by
  have hfilter : (m.filter fun x => decide (x.1 ≤ 16 * n)) = messagesBefore m (16 * n + 1) := by
    simp only [messagesBefore, Nat.lt_succ_iff]
  rw [hfilter, messagesBefore_succ_length hm, streamEvents_eq, List.length_append, ordinalEvents_flatMap_length p a image hm,
    messageEvents_length, Nat.add_assoc]

/-! ## Texts that are too long (R184) -/

/-- The message queued for ordinal `o` has more than 256 bytes. -/
def LongAt (m : Texts) (o : Nat) : Prop := ∃ text, lookupKey o m = some text ∧ 256 < text.length

/-- `EmitsUnless long c`: `c` emits bytes, unless `long` holds, when it raises `ShortBlock` for a length above 256. -/
def EmitsUnless (long : Prop) (c : Calc Buffer) : Prop :=
  (¬ long ∧ ∃ bytes, c = .value bytes) ∨ long ∧ ∃ len, 256 < len ∧ c = .raise (.shortBlock len)

theorem EmitsUnless.congr {long long' : Prop} {c : Calc Buffer} (h : EmitsUnless long c) (hiff : long ↔ long') :
    EmitsUnless long' c := by
  rwa [EmitsUnless, ← hiff]

theorem EmitsUnless.andThen_value {long : Prop} {c : Calc Buffer} (h : EmitsUnless long c) (f : Buffer → Buffer) :
    EmitsUnless long (c.andThen fun bytes => .value (f bytes)) := by
  rcases h with ⟨hshort, bytes, rfl⟩ | ⟨hlong, len, hlen, rfl⟩
  · exact .inl ⟨hshort, _, rfl⟩
  · exact .inr ⟨hlong, len, hlen, rfl⟩

theorem EmitsUnless.andThen {long long' : Prop} {c : Calc Buffer} {f : Buffer → Calc Buffer} (h : EmitsUnless long c)
    (hf : ∀ bytes, EmitsUnless long' (f bytes)) : EmitsUnless (long ∨ long') (c.andThen f) := by
  rcases h with ⟨hshort, bytes, rfl⟩ | ⟨hlong, len, hlen, rfl⟩
  · exact (hf bytes).congr (by simp [hshort])
  · exact .inr ⟨.inl hlong, len, hlen, rfl⟩

theorem emitsUnless_gather {α : Type} {f : α → Calc Buffer} {long : α → Prop} {as : List α}
    (h : ∀ a ∈ as, EmitsUnless (long a) (f a)) : EmitsUnless (∃ a ∈ as, long a) (gather f as) := by
  induction as with
  | nil => exact .inl ⟨by simp, [], rfl⟩
  | cons a as ih =>
    obtain ⟨ha, has⟩ := List.forall_mem_cons.1 h
    rw [gather_cons]
    exact (ha.andThen fun bytes => (ih has).andThen_value (bytes ++ ·)).congr (by simp)

theorem emitMessage_emitsUnless {p : Profile} (hk : p.midiKey ≠ []) (m : Texts) (o : Nat) :
    EmitsUnless (LongAt m o) (emitMessage p m o) := by
  by_cases hlong : LongAt m o
  · obtain ⟨text, htext, hlen⟩ := hlong
    refine .inr ⟨⟨text, htext, hlen⟩, text.length, hlen, ?_⟩
    rw [emitMessage, htext]
    dsimp only
    rw [msgBuild_of_long hlen, Calc.andThen_raise]
  · exact .inl ⟨hlong, _, emitMessage_eq hk fun text htext => not_lt.1 fun hlen => hlong ⟨text, htext, hlen⟩⟩

theorem emitSub_emitsUnless {p : Profile} (hk : p.midiKey ≠ []) (m : Texts) (blk o : Nat) {x : Buffer} (hx : x.length = 4096)
    {j : Nat} (hj : j < 16) : EmitsUnless (LongAt m (o + j)) (emitSub p m blk o x j) := by
  have hd : (slice x (256 * j) 256).length = 256 := by
    rw [slice, List.length_take, List.length_drop]
    omega
  rw [emitSub, sbBuild_of_length hd, Calc.andThen_value, sbWrap_record hk _ hd]
  exact (emitMessage_emitsUnless hk m (o + j)).andThen_value _

theorem encipherBlock_length (p : Profile) (blk : Nat) (x : Buffer) : (encipherBlock p blk x).length = x.length := by
  unfold encipherBlock
  split
  · exact cipher_length _ x
  · rfl

theorem emitBlock_emitsUnless {p : Profile} (hk : p.midiKey ≠ []) (a : Nat) {image : Buffer} {n i : Nat}
    (himage : image.length = 4096 * n) (hi : i < n) (m : Texts) :
    EmitsUnless (∃ j ∈ List.range 16, LongAt m (16 * i + j)) (emitBlock p a image m i) := by
  refine emitsUnless_gather fun j hj => emitSub_emitsUnless hk m _ _ ?_ (List.mem_range.1 hj)
  rw [encipherBlock_length, slice, List.length_take, List.length_drop]
  omega

/-- The ordinals of the blocks and the final one are those up to `16 * n`. -/
theorem longAt_blocks_or_last_iff (m : Texts) (n : Nat) :
    ((∃ i ∈ List.range n, ∃ j ∈ List.range 16, LongAt m (16 * i + j)) ∨ LongAt m (16 * n)) ↔ ∃ o ≤ 16 * n, LongAt m o := by
  simp only [List.mem_range]
  constructor
  · rintro (⟨i, hi, j, hj, h⟩ | h)
    · exact ⟨_, by omega, h⟩
    · exact ⟨_, le_rfl, h⟩
  · rintro ⟨o, ho, h⟩
    rcases ho.lt_or_eq with ho | rfl
    · exact .inl ⟨o / 16, by omega, o % 16, by omega, by rwa [Nat.div_add_mod]⟩
    · exact .inr h

theorem emitStream_emitsUnless {p : Profile} (hk : p.midiKey ≠ []) {a : Nat} {b : Buffer}
    (hrange : a / 4096 + blocksOf b.length ≤ 0x80) (m : Texts) :
    EmitsUnless (∃ o ≤ 16 * blocksOf b.length, LongAt m o) (emitStream p a m b) := by
  have hblocks := emitsUnless_gather (as := List.range (blocksOf b.length)) fun i hi =>
    emitBlock_emitsUnless hk a (padBlocks_length b) (List.mem_range.1 hi) m
  rw [emitStream, blockOfAddress_eq, if_neg (by omega)]
  exact (hblocks.andThen fun stream => (emitMessage_emitsUnless hk m _).andThen_value (stream ++ ·)).congr
    (longAt_blocks_or_last_iff m _)

/-- A long text at an emitted ordinal ends ENCODE with `ShortBlock`. -/
theorem encodeStream_of_longAt {profiles : List Profile} {p : Profile} (hp : p ∈ profiles) (hmidi : p.midiKey ≠ [])
    (happ : p.appKey ≠ []) {a n : Nat} {b : Buffer} {m : Texts} (ha : a % 4096 = 0) (hn : n = (b.length + 4095) / 4096)
    (hrange : a / 4096 + n ≤ 0x80) {o : Nat} (ho : o ≤ 16 * n) (hlong : LongAt m o) :
    ∃ len, 256 < len ∧ encodeStream profiles p a b m = .raise (.shortBlock len) := by
  have hblocks : blocksOf (keyedImage p a b).length = n := by rw [keyedImage_length, hn, blocksOf]
  have hends := emitStream_emitsUnless hmidi (b := keyedImage p a b) (by rwa [hblocks]) m
  rw [hblocks] at hends
  rw [encodeStream_of_aligned hp ha happ]
  rcases hends with ⟨hshort, -⟩ | ⟨-, h⟩
  · exact absurd ⟨o, ho, hlong⟩ hshort
  · exact h

/-! ## The stream -/

/-- Settles O57: the stream is the bytes of its events, each of which carries a record, so that they scan back. -/
theorem encodeEmitsSixteenEventsABlock : Obligations.EncodeEmitsSixteenEventsABlock := by
  intro p a b m s n hp _ ha hmidi happ hn hrange hwf
  refine ⟨fun hm => ?_, fun ⟨x, hx, ho, hlen⟩ => ?_⟩
  · have himage : (flashImage p a b).length = 4096 * n := by rw [flashImage_length, hn]
    have hencode := encodeStream_eq hp hmidi happ ha hn hrange fun o ho text htext => hm _ (mem_of_lookupKey htext) ho
    have hcarries : ∀ e ∈ streamEvents p a (flashImage p a b) m n, Carries p e := by
      rw [← streamEvents_messagesBefore]
      refine carries_streamEvents p a himage fun x hx => ?_
      obtain ⟨hx, ho⟩ := List.mem_filter.1 hx
      exact hm x hx (Nat.lt_succ_iff.1 (of_decide_eq_true ho))
    have hlength : ∀ e ∈ streamEvents p a (flashImage p a b) m n, e.bytes.length = 304 := fun e he => (hcarries e he).bytes_length
    refine ⟨_, _, rfl, ?_, rfl, hlength, streamEvents_length p a _ hwf n, ?_, ?_⟩
    · rw [exec_encodeImage, hencode]
      rfl
    · rw [List.length_flatMap, List.map_congr_left hlength, List.map_const', List.sum_replicate_nat, Nat.mul_comm]
    · rw [exec_envScan, scan_flatMap_bytes fun e he => (hcarries e he).wellFormed]
      rfl
  · obtain ⟨len, hlong, hraise⟩ :=
      encodeStream_of_longAt hp hmidi happ ha hn hrange ho ⟨x.2, lookupKey_of_mem hwf hx, hlen⟩
    refine ⟨len, hlong, ?_⟩
    rw [exec_encodeImage, hraise]
    rfl

end Sys2Proof.Machine
end

section
/-! The partitioner (R206 to R209): the gap-sensitive view block by block, an empty range, the application key the bootloader
holds, and PART.APPDEC as XORK. -/

namespace Sys2Proof.Machine

/-! ## The gap-sensitive view (R206) -/

theorem exec_partSens (map : BlockMap) (lo hi : Nat) (s : State) : exec (.partSens map lo hi) s =
    .next (s.answered (.rendering (renderSensitive map (indexRange lo hi) none []).1
      (renderSensitive map (indexRange lo hi) none []).2)) := rfl

@[simp] theorem renderSensitive_nil (m : BlockMap) (first : Option Nat) (img : Buffer) :
    renderSensitive m [] first img = (first, img) := rfl

/-- A present block is emitted, and is the start unless there is one. -/
theorem renderSensitive_cons_of_present {m : BlockMap} {i : Nat} {blk : Buffer} (h : lookupKey i m = some blk) (is : List Nat)
    (first : Option Nat) (img : Buffer) :
    renderSensitive m (i :: is) first img = renderSensitive m is (first.or (some i)) (img ++ blk) := by
  cases first with
  | none => rw [renderSensitive, BlockMap.get, h, Option.none_or]
  | some f => rw [renderSensitive, BlockMap.get, h, Option.some_or]

/-- A missing block before the first emitted one is passed over. -/
theorem renderSensitive_cons_of_absent {m : BlockMap} {i : Nat} (h : lookupKey i m = none) (is : List Nat) (img : Buffer) :
    renderSensitive m (i :: is) none img = renderSensitive m is none img := by
  rw [renderSensitive, BlockMap.get, h]

/-- A missing block after an emitted one ends the view. -/
theorem renderSensitive_cons_of_gap {m : BlockMap} {i : Nat} (h : lookupKey i m = none) (is : List Nat) (f : Nat)
    (img : Buffer) : renderSensitive m (i :: is) (some f) img = (some f, img) := by
  rw [renderSensitive, BlockMap.get, h]

theorem renderSensitive_append_of_absent {m : BlockMap} {is : List Nat} (h : ∀ i ∈ is, lookupKey i m = none) (js : List Nat)
    (img : Buffer) : renderSensitive m (is ++ js) none img = renderSensitive m js none img := by
  induction is with
  | nil => rfl
  | cons i is ih =>
    obtain ⟨hi, his⟩ := List.forall_mem_cons.1 h
    rw [List.cons_append, renderSensitive_cons_of_absent hi, ih his]

theorem renderSensitive_append_of_present {m : BlockMap} {is : List Nat} {blk : Nat → Buffer}
    (h : ∀ i ∈ is, lookupKey i m = some (blk i)) (js : List Nat) (first : Option Nat) (img : Buffer) :
    renderSensitive m (is ++ js) first img = renderSensitive m js (first.or is.head?) (img ++ is.flatMap blk) := by
  induction is generalizing first img with
  | nil => simp
  | cons i is ih =>
    obtain ⟨hi, his⟩ := List.forall_mem_cons.1 h
    rw [List.cons_append, renderSensitive_cons_of_present hi, ih his, Option.or_assoc, List.append_assoc]
    rfl

/-- A range, cut at two places. -/
theorem indexRange_eq_append {lo f e hi : Nat} (hlo : lo ≤ f) (hfe : f ≤ e) (he : e ≤ hi + 1) :
    indexRange lo hi = List.range' lo (f - lo) ++ (List.range' f (e - f) ++ List.range' e (hi + 1 - e)) := by
  obtain ⟨a, rfl⟩ := Nat.exists_eq_add_of_le hlo
  obtain ⟨b, rfl⟩ := Nat.exists_eq_add_of_le hfe
  obtain ⟨c, hc⟩ := Nat.exists_eq_add_of_le he
  rw [indexRange, hc, Nat.add_sub_cancel_left, Nat.add_sub_cancel_left, Nat.add_sub_cancel_left, List.range'_append_1,
    List.range'_append_1]
  congr 1
  omega

theorem mem_range'_sub {a b i : Nat} : i ∈ List.range' a (b - a) ↔ a ≤ i ∧ i < b := by
  rw [List.mem_range'_1]
  omega

/-- Past the run there is no index, or a gap. -/
theorem renderSensitive_after_run {m : BlockMap} {e hi : Nat} (h : e = hi + 1 ∨ lookupKey e m = none) (f : Nat)
    (img : Buffer) : renderSensitive m (List.range' e (hi + 1 - e)) (some f) img = (some f, img) := by
  cases hn : hi + 1 - e with
  | zero => rfl
  | succ n =>
    have hgap : lookupKey e m = none := h.resolve_left (by omega)
    rw [List.range'_succ, renderSensitive_cons_of_gap hgap]

theorem renderSensitive_of_absent {m : BlockMap} {lo hi : Nat} (h : ∀ i, lo ≤ i → i ≤ hi → lookupKey i m = none) :
    renderSensitive m (indexRange lo hi) none [] = (none, []) := by
  have habsent : ∀ i ∈ indexRange lo hi, lookupKey i m = none := fun i hmem => by
    obtain ⟨hfrom, hto⟩ := mem_range'_sub.1 hmem
    exact h i hfrom (by omega)
  rw [← List.append_nil (indexRange lo hi), renderSensitive_append_of_absent habsent, renderSensitive_nil]

/-- The first run `f .. e - 1` of present blocks is the view. -/
theorem renderSensitive_of_run {m : BlockMap} {lo hi f e : Nat} {blk : Nat → Buffer} (hlo : lo ≤ f) (hfe : f < e)
    (he : e ≤ hi + 1) (hbefore : ∀ i, lo ≤ i → i < f → lookupKey i m = none)
    (hrun : ∀ i, f ≤ i → i < e → lookupKey i m = some (blk i)) (hend : e = hi + 1 ∨ lookupKey e m = none) :
    renderSensitive m (indexRange lo hi) none [] = (some f, (List.range' f (e - f)).flatMap blk) := by
  have habsent : ∀ i ∈ List.range' lo (f - lo), lookupKey i m = none := fun i hmem => by
    obtain ⟨hfrom, hto⟩ := mem_range'_sub.1 hmem
    exact hbefore i hfrom hto
  have hpresent : ∀ i ∈ List.range' f (e - f), lookupKey i m = some (blk i) := fun i hmem => by
    obtain ⟨hfrom, hto⟩ := mem_range'_sub.1 hmem
    exact hrun i hfrom hto
  have hstart : (List.range' f (e - f)).head? = some f := by
    rw [List.head?_range', if_neg (by omega)]
  rw [indexRange_eq_append hlo hfe.le he, renderSensitive_append_of_absent habsent,
    renderSensitive_append_of_present hpresent, hstart, Option.none_or, List.nil_append, renderSensitive_after_run hend]

/-- Settles O52: the range is cut into the indices before the run, the run, and those after it. -/
theorem gapSensitiveViewIsTheFirstRun : Obligations.GapSensitiveViewIsTheFirstRun := by
  refine fun map lo hi s => ⟨rfl, fun _ habsent => ?_, fun f e blk hlo hfe he hbefore hrun hend => ?_⟩
  · rw [exec_partSens, renderSensitive_of_absent habsent]
    rfl
  · rw [exec_partSens, renderSensitive_of_run hlo hfe he hbefore hrun hend]
    rfl

/-! ## An empty range (R206, R207) -/

theorem indexRange_of_lt {lo hi : Nat} (h : hi < lo) : indexRange lo hi = [] := by
  rw [indexRange, Nat.sub_eq_zero_of_le h, List.range'_zero]

/-- Settles O53: neither loop has an index to run over. -/
theorem emptyRangeRendersNothing : Obligations.EmptyRangeRendersNothing := by
  refine fun map lo hi s h => ⟨?_, ?_⟩
  · rw [exec_partFill, indexRange_of_lt h]
    rfl
  · rw [exec_partSens, indexRange_of_lt h]
    rfl

/-! ## The application key (R209, R205) -/

theorem exec_appkeyRecover (map : BlockMap) (p : Profile) (s : State) :
    exec (.appkeyRecover map p) s = .next (s.answered (.bytes (recoverAppKey map p))) := rfl

theorem bootloaderImage_of_present {m : BlockMap} {b0 b1 b2 b3 : Buffer} (h0 : lookupKey 0 m = some b0)
    (h1 : lookupKey 1 m = some b1) (h2 : lookupKey 2 m = some b2) (h3 : lookupKey 3 m = some b3) :
    bootloaderImage m = some (b0 ++ b1 ++ b2 ++ b3) := by
  rw [bootloaderImage, readAll_cons_some h0, readAll_cons_some h1, readAll_cons_some h2, readAll_cons_some h3]
  simp [Memory.readAll]

theorem bootloaderImage_of_absent {m : BlockMap} {i : Nat} (hi : i < 4) (h : lookupKey i m = none) :
    bootloaderImage m = none :=
  readAll_of_absent (List.mem_range.2 hi) h

theorem recoverAppKey_of_image {m : BlockMap} {image : Buffer} (h : bootloaderImage m = some image) (p : Profile) :
    recoverAppKey m p = List.zipWith (fun x y => x ^^^ y) (slice image 0x3002 56) (slice image 0x303A 56) := by
  rw [recoverAppKey, h]

theorem recoverAppKey_of_no_image {m : BlockMap} (h : bootloaderImage m = none) (p : Profile) :
    recoverAppKey m p = p.appKey := by
  rw [recoverAppKey, h]

theorem slice_length {x : Buffer} {off len : Nat} (h : off + len ≤ x.length) : (slice x off len).length = len := by
  rw [slice, List.length_take, List.length_drop]
  omega

theorem slice_getElem? {x : Buffer} {off len j : Nat} (h : off + len ≤ x.length) (hj : j < len) :
    (slice x off len)[j]? = some (x.getD (off + j) 0) := by
  have hin : off + j < x.length := by omega
  rw [slice, List.getElem?_take_of_lt hj, List.getElem?_drop, List.getElem?_eq_getElem hin, List.getD_eq_getElem _ _ hin]

theorem length_of_lookupKey {m : BlockMap} (hm : BlockMap.wf m) {i : Nat} {blk : Buffer}
    (h : lookupKey i m = some blk) : blk.length = 4096 := by
  obtain ⟨-, hblocks⟩ := hm
  exact (hblocks _ (mem_of_lookupKey h)).2

/-- Settles O54: four blocks reach past the end of both fields, 0x3072. -/
theorem appKeyIsRecoveredFromTheBootloader : Obligations.AppKeyIsRecoveredFromTheBootloader := by
  refine fun map p s hm => ⟨fun b0 b1 b2 b3 h0 h1 h2 h3 => ?_, fun ⟨i, hi, habsent⟩ => ?_⟩
  · have himage := bootloaderImage_of_present h0 h1 h2 h3
    have hlength : (b0 ++ b1 ++ b2 ++ b3).length = 16384 := by
      simp only [List.length_append, length_of_lookupKey hm h0, length_of_lookupKey hm h1,
        length_of_lookupKey hm h2, length_of_lookupKey hm h3]
    generalize b0 ++ b1 ++ b2 ++ b3 = image at himage hlength ⊢
    refine ⟨_, exec_appkeyRecover map p s, ?_, fun j hj => ?_⟩
    · rw [recoverAppKey_of_image himage, List.length_zipWith, slice_length (by omega), slice_length (by omega), Nat.min_self]
    · rw [recoverAppKey_of_image himage, List.getElem?_zipWith, slice_getElem? (by omega) hj, slice_getElem? (by omega) hj]
  · rw [exec_appkeyRecover, recoverAppKey_of_no_image (bootloaderImage_of_absent hi habsent)]
    rfl

/-! ## The application image (R208) -/

/-- PART.APPDEC is XORK with the operands in the other order. -/
theorem exec_partAppdec (raw key : Buffer) (s : State) : exec (.partAppdec raw key) s = exec (.xork key raw) s := rfl

/-- Settles O55: the second pass undoes the first, as R111 says of XORK. -/
theorem appdecIsXorkOverTheRawImage : Obligations.AppdecIsXorkOverTheRawImage := by
  refine fun raw key s => ⟨fun hkey => ?_, fun hkey => ?_⟩
  · obtain ⟨dec, hdec, hraw⟩ := xorkTwiceIsTheIdentity key raw s hkey
    exact ⟨dec, (exec_partAppdec raw key s).trans hdec, hdec, (exec_partAppdec dec key s).trans hraw⟩
  · rw [exec_partAppdec, hkey, exec_xork_nil]

end Sys2Proof.Machine
end

section
/-! Faults (R230, R231, R233) and reset (R251): what a fault changes, by whether the instruction hands an event to the assembler;
the refusals of a FAULTED pass; the values after reset. -/

namespace Sys2Proof.Machine

/-! ## What a fault changes -/

/-- A record that raises a fault leaves nothing of itself but the status (R231). -/
theorem Filed.of_raised {s t : State} {r : Raised} (h : Filed s t) (hr : t.answer = .raised r) : t = takeFault true r s := by
  rcases h with ⟨_, -, rfl⟩ | ⟨_, -, rfl⟩ | ⟨_, _, -, -, rfl⟩
  · cases hr
    rfl
  · cases hr
  · cases hr

/-- The acceptance of an event that raises a fault has written at most `seen_model` and `prof` before it (R231). -/
theorem accept_raised_eq_takeFault {ev : Event} {s t : State} {r : Raised} (h : accept ev s = .next t) (hr : t.answer = .raised r) :
    ∃ sm prof, t = takeFault true r { s with seenModel := sm, prof := prof } := by
  obtain ⟨-, rfl | ⟨sm, -, ⟨_, -, rfl⟩ | ⟨p, -, hfiled⟩⟩⟩ := accept_next h
  · cases hr
  · cases hr
    exact ⟨sm, s.prof, rfl⟩
  · exact ⟨sm, some p, hfiled.of_raised hr⟩

theorem acceptsEvent_of_answersOnly {i : Instr} (hi : answersOnly i = true) : acceptsEvent i = false := by
  unfold answersOnly at hi
  split at hi
  · cases hi
  · simp_all

/-- A fault is taken in one of two ways: an instruction that hands no event to the assembler changes the answer only, any other
faults the pass (R230, R231). -/
theorem exec_raised {i : Instr} {s t : State} {r : Raised} (hi : ∀ buf, i ≠ .decodeStream buf) (h : exec i s = .next t)
    (hr : t.answer = .raised r) :
    (acceptsEvent i = false ∧ t = s.answered (.raised r)) ∨
    (acceptsEvent i = true ∧ ∃ sm prof, t = takeFault true r { s with seenModel := sm, prof := prof }) := by
  cases exec_next h with
  | answered only a =>
    cases hr
    exact .inl ⟨acceptsEvent_of_answersOnly only, rfl⟩
  | envReset => cases hr
  | envFeed b a =>
    have hnext := (exec_envFeed b s).symm.trans h
    have ha : .event (feedByte b s).2 = a := congrArg State.answer (Host.Outcome.next.inj hnext)
    cases ha.trans hr
  | envEnd => cases hr
  | envScan buf a =>
    have hnext := (exec_envScan buf s).symm.trans h
    have ha : .events (scan buf s).2 = a := congrArg State.answer (Host.Outcome.next.inj hnext)
    cases ha.trans hr
  | asmReset => cases hr
  | asmPreset p ok free => cases hr
  | accepted ev accepts haccept => exact .inr ⟨accepts, accept_raised_eq_takeFault haccept hr⟩
  | decodeStream hdecode => exact absurd rfl (hi _)

/-- Settles O12: each of the two ways of taking a fault is a named update of the state. -/
theorem faultIsPrecise : Obligations.FaultIsPrecise := by
  intro i s t r hi h hr
  rcases exec_raised hi h hr with ⟨hno, rfl⟩ | ⟨hyes, sm, prof, rfl⟩
  · exact ⟨rfl, fun _ => ⟨rfl, rfl, rfl⟩, by simp [hno]⟩
  · exact ⟨rfl, by simp [hyes], fun _ => rfl⟩

/-! ## A FAULTED pass -/

/-- The wire forms of a record are refused while FAULTED, whatever the profile they present (R233, log 9). -/
theorem acceptRecord_of_faulted {s : State} {k : Kind} (hk : s.asmStatus = .faulted k) (p : Profile) (r : Buffer) :
    acceptRecord p r s = .refused .passFaulted := whileOk_of_faulted hk

theorem accept_of_faulted {s : State} {k : Kind} (hk : s.asmStatus = .faulted k) (ev : Event) :
    accept ev s = .refused .passFaulted := whileOk_of_faulted hk

/-- Settles O10: each of the seven is guarded by the status, the wire forms through the acceptance they are. -/
theorem faultedPassRefuses : Obligations.FaultedPassRefuses := by
  intro s k hk
  exact ⟨fun ev => accept_of_faulted hk ev, fun p => whileOk_of_faulted hk, fun u m => whileOk_of_faulted hk,
    exec_asmGetblocks_faulted hk, fun d m payload => accept_of_faulted hk _,
    fun p sub c data => acceptRecord_of_faulted hk p (recordBytesOf sub c data),
    fun p c text => acceptRecord_of_faulted hk p (recordBytesOf Config.msgSub c text)⟩

/-! ## Reset -/

/-- Settles O6: the table of R40, register by register. -/
theorem resetLeavesTheTableOfR40 : Obligations.ResetLeavesTheTableOfR40 :=
  ⟨rfl, rfl, rfl, rfl, rfl, rfl, rfl, rfl, rfl⟩

end Sys2Proof.Machine
end
